-- ==== Sys2Proof/Word.lean ====
section
/-! DEFINITION. The widths the spec fixes (00_scope.md R5): a byte is 8 bits, a CRC value 16 bits, a command tuple 28 bits. -/

namespace Sys2Proof

/-- A byte, "u8" (R5). -/
abbrev Byte := BitVec 8

/-- A CRC accumulator or a frame check sequence, "u16" (R5). -/
abbrev Word16 := BitVec 16

/-- The command tuple CW = op, crc, byte, 28 bits (30_encoding.md R81). -/
abbrev Tuple := BitVec 28

end Sys2Proof
end

