-- ==== Sys2Proof/Config.lean ====
section
/-! DEFINITION. The one parameter of the framer, BUF_CAP (00_scope.md R6). Everything else is fixed (R7). The spec leaves
no result value open, so there is no free value here. -/

namespace Sys2Proof

/-- BUF_CAP: the capacity in bytes of the receive reassembly buffer (R6). Values below 2 can be written down and are
refused by the step (60_exceptions.md R204). -/
inductive BufCap where
  /-- BUF_CAP = ∞, the document's growable buffer. -/
  | unbounded
  /-- a finite BUF_CAP. -/
  | bytes (n : Nat)
deriving DecidableEq, Repr

/-- The value State.reset takes: unbounded, "the default for comparing against the document" (92_eei_decisions.md D5).
DESIGN CHOICE, log 3. -/
def Config.bufCap : BufCap := .unbounded

end Sys2Proof
end

