-- ==== Sys2Proof/Machine/Constants.lean ====
section
/-! DEFINITION. The constants of 30_encoding.md R70. -/

namespace Sys2Proof.Machine

/-- FLAG 0x7E: opens and closes every frame. -/
abbrev flagByte : Byte := 0x7E#8
/-- ESC 0x7D: first byte of an escape pair. -/
abbrev escByte : Byte := 0x7D#8
/-- XON 0x11: member of the escape set only. -/
abbrev xonByte : Byte := 0x11#8
/-- XOFF 0x13: member of the escape set only. -/
abbrev xoffByte : Byte := 0x13#8
/-- SPECIAL 0xF8: member of the escape set only. -/
abbrev specialByte : Byte := 0xF8#8
/-- XFORM 0x20: the XOR mask of the escape transform. -/
abbrev xformMask : Byte := 0x20#8
/-- CRC_RESET 0xFFFF: seed of the running CRC and final XOR mask. -/
abbrev crcReset : Word16 := 0xFFFF#16
/-- CRC_POLY 0x8408: the reflected polynomial. -/
abbrev crcPoly : Word16 := 0x8408#16
/-- CRC_CHECK 0xF0B8: the running CRC, before the final XOR, after a correct frame's content (R107, conflict C4).
No operation uses it. -/
abbrev crcCheck : Word16 := 0xF0B8#16

end Sys2Proof.Machine
end

