-- ==== Sys2Proof/Machine/Operands.lean ====
section
/-! DEFINITION. The values the operations assemble from their operands: the CRC step (40_crc.md R100), the escape set and
transform (41_escape.md R120 to R122), the two bytes of an FCS and its assembly (30_encoding.md R85), the byte classes
(R72, R75), and what BUF_CAP allows (00_scope.md R6). -/

namespace Sys2Proof.Machine

/-- The table index (crc ^ zext_16(byte))[7:0] (R85 item 3, R100). -/
def crcIndex (crc : Word16) (byte : Byte) : Byte :=
  (crc ^^^ byte.setWidth 16).setWidth 8

/-- `crc16Step` (R100): T[idx] ^ (crc >> 8). That "combined with" is exclusive or is the spec's reading (G2). -/
def crc16Step (crc : Word16) (byte : Byte) : Word16 :=
  crcEntry (crcIndex crc byte) ^^^ (crc >>> 8)

/-- The final XOR that turns a running CRC into a frame check sequence (R105). -/
def finishCrc (crc : Word16) : Word16 := crc ^^^ crcReset

/-- fcs[7:0] (R85). -/
def lowByte (w : Word16) : Byte := w.extractLsb' 0 8

/-- fcs[15:8] (R85). -/
def highByte (w : Word16) : Byte := w.extractLsb' 8 8

/-- fcs_recv: the high byte is the LAST content byte (20_memory.md R54, R85 item 2). -/
def joinFcs (last lastButOne : Byte) : Word16 := last ++ lastButOne

/-- `needsEscape` (R120). -/
def needsEscape (b : Byte) : Bool :=
  b == flagByte || b == escByte || b == xonByte || b == xoffByte || b == specialByte

/-- The escape transform, XOR with 0x20, the same in both directions (R121). -/
def escapeTransform (b : Byte) : Byte := b ^^^ xformMask

/-- `stuff`: the wire form of one content byte (R122). -/
def stuff (b : Byte) : List Byte :=
  if needsEscape b then [escByte, escapeTransform b] else [b]

/-- The receive byte classes (R72). -/
inductive RxClass where
  | flag
  | esc
  | data
deriving DecidableEq, Repr

/-- The class of a wire byte, by value alone; the flag is tested first (R72, 43_rx_decoder.md R150). -/
def rxClass (b : Byte) : RxClass :=
  if b == flagByte then .flag else if b == escByte then .esc else .data

/-- A content byte can be stored at index `i`: `i < BUF_CAP` (20_memory.md R51). -/
def capAllows : BufCap → Nat → Bool
  | .unbounded, _ => true
  | .bytes n, i => decide (i < n)

/-- `rx_len == BUF_CAP`; never true when BUF_CAP is unbounded (43_rx_decoder.md R158). -/
def capFull : BufCap → Nat → Bool
  | .unbounded, _ => false
  | .bytes n, len => len == n

/-- `len <= BUF_CAP` (10_state.md R22). -/
def capFits : BufCap → Nat → Bool
  | .unbounded, _ => true
  | .bytes n, len => decide (len ≤ n)

/-- The content bytes that fit (43_rx_decoder.md R172). -/
def capTake : BufCap → List Byte → List Byte
  | .unbounded, c => c
  | .bytes n, c => c.take n

/-- BUF_CAP is in {2, 3, 4, ...} or unbounded (R6). -/
def capAdmissible : BufCap → Bool
  | .unbounded => true
  | .bytes n => decide (2 ≤ n)

/-- The width in bits of the `rx_len` register, ceil(log2(BUF_CAP + 1)), for a finite BUF_CAP of at least 1 (R22). -/
def rxLenBits : BufCap → Option Nat
  | .unbounded => none
  | .bytes n => some (n.log2 + 1)

end Sys2Proof.Machine
end

