-- ==== Sys2Proof/Syntax.lean ====
section
/-! DEFINITION. The instructions: one constructor per row of spec/opcode_table.json, and the three formats in which the
rows are encoded (30_encoding.md R81, R87). -/

namespace Sys2Proof

/-- One constructor per row of the opcode table. A field that an operation ignores (R81) is no operand of it. -/
inductive Instr where
  /-- CRCSTEP crc, byte (R100). -/
  | crcstep (crc : Word16) (byte : Byte)
  /-- NEEDESC byte (R120). -/
  | needesc (byte : Byte)
  /-- TXOPEN (R131). -/
  | txopen
  /-- TXBYTE byte (R132). -/
  | txbyte (byte : Byte)
  /-- TXCLOSE (R133). -/
  | txclose
  /-- RXBYTE byte (R150). -/
  | rxbyte (byte : Byte)
  /-- RXRESET (R166). -/
  | rxreset
  /-- RX.FLAG: the wire byte 0x7E (R72). -/
  | rxFlag
  /-- RX.ESC: the wire byte 0x7D (R72). -/
  | rxEsc
  /-- RX.DATA: any other wire byte (R72). -/
  | rxData (byte : Byte)
  /-- TX.STUFF.7E: the content byte 0x7E (R75). -/
  | txStuff7E
  /-- TX.STUFF.7D: the content byte 0x7D (R75). -/
  | txStuff7D
  /-- TX.STUFF.11: the content byte 0x11 (R75). -/
  | txStuff11
  /-- TX.STUFF.13: the content byte 0x13 (R75). -/
  | txStuff13
  /-- TX.STUFF.F8: the content byte 0xF8 (R75). -/
  | txStuffF8
  /-- TX.LIT: any other content byte (R75). -/
  | txLit (byte : Byte)
deriving DecidableEq, Repr

/-- One encoded instruction, in one of the three formats of the opcode table (R87). -/
inductive PortWord where
  /-- format CW: a command tuple, what the caller issues (R81). -/
  | command (w : Tuple)
  /-- format RXW: one wire byte for the receiver (R72). -/
  | wire (b : Byte)
  /-- format TXW: one content byte for the transmitter (R75). -/
  | content (b : Byte)
deriving DecidableEq, Repr

end Sys2Proof
end

