-- ==== Sys2Proof/WellFormed.lean ====
section
/-! DEFINITION. Which instructions are well formed: the two default rows RX.DATA and TX.LIT take every value that no other
row of their format takes (30_encoding.md R87). Every other instruction is well formed with every operand. -/

namespace Sys2Proof

/-- The well-formed instructions. -/
def Instr.wf : Instr → Bool
  | .rxData b => b != Machine.flagByte && b != Machine.escByte
  | .txLit b => !Machine.needsEscape b
  | .crcstep _ _ | .needesc _ | .txopen | .txbyte _ | .txclose | .rxbyte _ | .rxreset => true
  | .rxFlag | .rxEsc | .txStuff7E | .txStuff7D | .txStuff11 | .txStuff13 | .txStuffF8 => true

end Sys2Proof
end

