-- ==== Sys2Proof/Decode.lean ====
section
/-! DEFINITION. Decoding, total on every word of every format, refusing by name; the encoder; and the opcode table with the
matching rule of 30_encoding.md R87. -/

namespace Sys2Proof

/-- Why a word decodes to no instruction. -/
inductive DecodeError where
  /-- Operation codes 0x0 and 0x8 to 0xF are reserved (R82). -/
  | reservedCode (op : BitVec 4)
deriving DecidableEq, Repr

/-- CW[27:24] (R81). -/
def tupleOp (w : Tuple) : BitVec 4 := w.extractLsb' 24 4

/-- CW[23:8] (R81). -/
def tupleCrc (w : Tuple) : Word16 := w.extractLsb' 8 16

/-- CW[7:0] (R81). -/
def tupleByte (w : Tuple) : Byte := w.extractLsb' 0 8

/-- CW = op, crc, byte, with op in the high bits (R81). -/
def makeTuple (op : BitVec 4) (crc : Word16) (byte : Byte) : Tuple := op ++ crc ++ byte

/-- Format CW (R82). The fields an operation ignores are not looked at (R81). -/
def decodeTuple (w : Tuple) : Except DecodeError Instr :=
  match (tupleOp w).toNat with
  | 1 => .ok (.crcstep (tupleCrc w) (tupleByte w))
  | 2 => .ok (.needesc (tupleByte w))
  | 3 => .ok .txopen
  | 4 => .ok (.txbyte (tupleByte w))
  | 5 => .ok .txclose
  | 6 => .ok (.rxbyte (tupleByte w))
  | 7 => .ok .rxreset
  | _ => .error (.reservedCode (tupleOp w))

/-- Format RXW (R72). -/
def decodeWire (b : Byte) : Instr :=
  match Machine.rxClass b with
  | .flag => .rxFlag
  | .esc => .rxEsc
  | .data => .rxData b

/-- Format TXW (R75). -/
def decodeContent (b : Byte) : Instr :=
  if b == Machine.flagByte then .txStuff7E
  else if b == Machine.escByte then .txStuff7D
  else if b == Machine.xonByte then .txStuff11
  else if b == Machine.xoffByte then .txStuff13
  else if b == Machine.specialByte then .txStuffF8
  else .txLit b

/-- The instruction a word stands for. -/
def decode : PortWord → Except DecodeError Instr
  | .command w => decodeTuple w
  | .wire b => .ok (decodeWire b)
  | .content b => .ok (decodeContent b)

/-- The word of an instruction; fields it ignores are 0. -/
def encode : Instr → PortWord
  | .crcstep crc byte => .command (makeTuple 0x1#4 crc byte)
  | .needesc byte => .command (makeTuple 0x2#4 0#16 byte)
  | .txopen => .command (makeTuple 0x3#4 0#16 0#8)
  | .txbyte byte => .command (makeTuple 0x4#4 0#16 byte)
  | .txclose => .command (makeTuple 0x5#4 0#16 0#8)
  | .rxbyte byte => .command (makeTuple 0x6#4 0#16 byte)
  | .rxreset => .command (makeTuple 0x7#4 0#16 0#8)
  | .rxFlag => .wire 0x7E#8
  | .rxEsc => .wire 0x7D#8
  | .rxData byte => .wire byte
  | .txStuff7E => .content 0x7E#8
  | .txStuff7D => .content 0x7D#8
  | .txStuff11 => .content 0x11#8
  | .txStuff13 => .content 0x13#8
  | .txStuffF8 => .content 0xF8#8
  | .txLit byte => .content byte

/-- The bits of a tuple an operation looks at (R81): op and both operands, op and byte, or op alone. Of a byte format
every bit is looked at. -/
def usedMask : Instr → Tuple
  | .crcstep _ _ => 0xFFFFFFF#28
  | .needesc _ | .txbyte _ | .rxbyte _ => 0xF0000FF#28
  | .txopen | .txclose | .rxreset => 0xF000000#28
  | .rxFlag | .rxEsc | .rxData _ => 0x00000FF#28
  | .txStuff7E | .txStuff7D | .txStuff11 | .txStuff13 | .txStuffF8 | .txLit _ => 0x00000FF#28

/-! ## The opcode table -/

/-- The three formats (R87). -/
inductive Format where
  | cw
  | rxw
  | txw
deriving DecidableEq, Repr

/-- A row of the opcode table (R87). -/
structure Row where
  mnemonic : String
  format : Format
  matchBits : Tuple
  mask : Tuple
deriving DecidableEq, Repr

/-- The rows of spec/opcode_table.json. -/
def opcodeTable : List Row :=
  [⟨"CRCSTEP", .cw, 0x1000000#28, 0xF000000#28⟩, ⟨"NEEDESC", .cw, 0x2000000#28, 0xF000000#28⟩,
   ⟨"TXOPEN", .cw, 0x3000000#28, 0xF000000#28⟩, ⟨"TXBYTE", .cw, 0x4000000#28, 0xF000000#28⟩,
   ⟨"TXCLOSE", .cw, 0x5000000#28, 0xF000000#28⟩, ⟨"RXBYTE", .cw, 0x6000000#28, 0xF000000#28⟩,
   ⟨"RXRESET", .cw, 0x7000000#28, 0xF000000#28⟩] ++
  [⟨"RX.FLAG", .rxw, 0x7E#28, 0xFF#28⟩, ⟨"RX.ESC", .rxw, 0x7D#28, 0xFF#28⟩, ⟨"RX.DATA", .rxw, 0x00#28, 0x00#28⟩] ++
  [⟨"TX.STUFF.7E", .txw, 0x7E#28, 0xFF#28⟩, ⟨"TX.STUFF.7D", .txw, 0x7D#28, 0xFF#28⟩,
   ⟨"TX.STUFF.11", .txw, 0x11#28, 0xFF#28⟩, ⟨"TX.STUFF.13", .txw, 0x13#28, 0xFF#28⟩,
   ⟨"TX.STUFF.F8", .txw, 0xF8#28, 0xFF#28⟩, ⟨"TX.LIT", .txw, 0x00#28, 0x00#28⟩]

/-- The mnemonic of an instruction's row. -/
def mnemonicOf : Instr → String
  | .crcstep _ _ => "CRCSTEP"
  | .needesc _ => "NEEDESC"
  | .txopen => "TXOPEN"
  | .txbyte _ => "TXBYTE"
  | .txclose => "TXCLOSE"
  | .rxbyte _ => "RXBYTE"
  | .rxreset => "RXRESET"
  | .rxFlag => "RX.FLAG"
  | .rxEsc => "RX.ESC"
  | .rxData _ => "RX.DATA"
  | .txStuff7E => "TX.STUFF.7E"
  | .txStuff7D => "TX.STUFF.7D"
  | .txStuff11 => "TX.STUFF.11"
  | .txStuff13 => "TX.STUFF.13"
  | .txStuffF8 => "TX.STUFF.F8"
  | .txLit _ => "TX.LIT"

/-- The format of a word. -/
def wordFormat : PortWord → Format
  | .command _ => .cw
  | .wire _ => .rxw
  | .content _ => .txw

/-- The bits of a word as one number, bit 0 the least significant. -/
def wordBits : PortWord → Tuple
  | .command w => w
  | .wire b => b.setWidth 28
  | .content b => b.setWidth 28

/-- A row matches a word of its format when `match` equals the word ANDed with `mask` (R87). -/
def rowMatches (w : PortWord) (r : Row) : Bool :=
  r.format == wordFormat w && wordBits w &&& r.mask == r.matchBits

/-- How many of the low `n` bits of a mask are 1. -/
def onesIn (mask : Tuple) : Nat → Nat
  | 0 => 0
  | n + 1 => (mask.getLsbD n).toNat + onesIn mask n

/-- The row with more 1 bits in its mask, the earlier one if they have as many. -/
def moreSpecific (best : Option Row) (r : Row) : Option Row :=
  match best with
  | none => some r
  | some b => if onesIn b.mask 28 < onesIn r.mask 28 then some r else some b

/-- The matching rule of R87: among the rows of the word's format that match, the one whose mask has the most 1 bits. -/
def lookupRow (w : PortWord) : Option Row :=
  (opcodeTable.filter (rowMatches w)).foldl moreSpecific none

/-! ## Words numbered as the opcode table numbers them -/

/-- An 8-bit word of the table does not say whether it is of format RXW or TXW. It is taken by R87's rule over the rows of
both formats, RXW where both have a row as specific: only 0x11, 0x13 and 0xF8 have a more specific row in TXW.
DESIGN CHOICE, log 6. -/
def bareByte (b : Byte) : PortWord :=
  if b == Machine.xonByte || b == Machine.xoffByte || b == Machine.specialByte then .content b else .wire b

/-- The word whose bits, numbered as the opcode table numbers them, are `w`: a byte where the row has at most 8 bits, a
command tuple otherwise (log 6). -/
def tableWord (nbits w : Nat) : PortWord :=
  if nbits ≤ 8 then bareByte (BitVec.ofNat 8 w) else .command (BitVec.ofNat 28 w)

/-- The instruction the decoder reads from such a word. -/
def decodeTableWord (nbits w : Nat) : Option Instr :=
  match decode (tableWord nbits w) with
  | .ok i => some i
  | .error _ => none

end Sys2Proof
end

