-- ==== Sys2Proof/Machine/Memory.lean ====
section
/-! DEFINITION. The cells of the reassembly buffer that hold a value, as a list of (index, byte) pairs with strictly rising
indices. An index that is not listed holds no value (10_state.md R23). -/

namespace Sys2Proof.Machine

/-- The listed cells. -/
abbrev Memory := List Host.Cell

/-- What an index holds: nothing where it is not listed (R23, R35). -/
def memLookup : Memory → Nat → Option Byte
  | [], _ => none
  | (i, b) :: rest, k => if k = i then some b else memLookup rest k

/-- Put byte `v` at index `k`, keeping the indices rising. -/
def memInsert : Memory → Nat → Byte → Memory
  | [], k, v => [(k, v)]
  | (i, b) :: rest, k, v =>
    if k < i then (k, v) :: (i, b) :: rest
    else if k = i then (k, v) :: rest
    else (i, b) :: memInsert rest k v

/-- The canonical form: indices strictly rising. An unlisted index reads as no value, so no listed entry can equal what an
unlisted one reads as. -/
abbrev Memory.wf (m : Memory) : Prop := (m.map Prod.fst).Pairwise (· < ·)

/-- The listed indices are exactly 0 .. len - 1 (20_memory.md R53: writes are sequential from index 0). -/
abbrev Memory.holds (m : Memory) (len : Nat) : Prop := m.map Prod.fst = List.range len

/-- The listed bytes in index order. -/
def memBytes (m : Memory) : List Byte := m.map Prod.snd

end Sys2Proof.Machine
end

