-- ==== Sys2Proof/Machine/State.lean ====
section
/-! DEFINITION. The state of the framer (10_state.md), the reasons a step can stop, and the state after reset (R35). -/

namespace Sys2Proof.Machine

/-- The decoder mode `rx_mode` (R21). -/
inductive Mode where
  /-- code 0: no flag seen since reset. -/
  | notStarted
  /-- code 1: a frame is open. -/
  | started
  /-- code 2: a frame is open and the previous wire byte was the escape byte. -/
  | unescaping
deriving DecidableEq, Repr

/-- What one RXBYTE can report (60_exceptions.md R190). NONE is the absence of an event and is not recorded. -/
inductive Event where
  /-- FRAME(payload), the payload by value (20_memory.md R63). -/
  | frame (payload : List Byte)
  /-- ERR_GARBAGE(fcs_calc, fcs_recv). -/
  | errGarbage (fcsCalc fcsRecv : Word16)
  /-- ERR_OVERFLOW. -/
  | errOverflow
deriving DecidableEq, Repr

/-- What a pure query puts into `res_out` (00_scope.md R10). -/
inductive Result where
  /-- the 16 bits of CRCSTEP. -/
  | crc (value : Word16)
  /-- the 1 bit of NEEDESC. -/
  | needEsc (bit : Bool)
deriving DecidableEq, Repr

/-- What the caller hands the framer: an encoded operation, or the hardware reset that may come between operations
(70_reset_and_hazards.md R220). Log 1, log 8. -/
inductive Input where
  | operation (w : PortWord)
  | hardwareReset
deriving DecidableEq, Repr

/-- The framer. -/
structure State where
  /-- The parameter BUF_CAP (00_scope.md R6); no operation writes it (R28). The model's own field, log 3. -/
  bufCap : BufCap
  /-- `rx_mode` (R21). -/
  rxMode : Mode
  /-- `rx_len` (R22). -/
  rxLen : Nat
  /-- `rx_buf` (R23): the cells that hold a value. -/
  rxBuf : Memory
  /-- `rx_crc` (R24). -/
  rxCrc : Word16
  /-- `rx_ovf` (R25). -/
  rxOvf : Bool
  /-- `tx_crc` (R26). -/
  txCrc : Word16
  /-- `tx_open` (R27). -/
  txOpen : Bool
  /-- `wire_out`, oldest first (R10). -/
  wireOut : List Byte
  /-- `evt_out`, oldest first (R10). -/
  evtOut : List Event
  /-- `res_out`, oldest first (R10). -/
  resOut : List Result
  /-- What the caller has yet to hand over, oldest first. The model's own field, log 1. -/
  inputs : List Input
deriving DecidableEq, Repr

/-- Errors of the model that cannot occur in a run from reset; the framer itself has no fault (93_implementation_defined.md
section 1). Safe: the machine stops where the spec gives no value. -/
inductive Fault where
  /-- Raised by the buffer read: `MemRead(i, 1)` with `i >= rx_len`, or of a cell that holds no value (20_memory.md R52). -/
  | bufferReadUndefined (index : Nat)
  /-- Raised by the buffer write: `MemWrite(i, 1, v)` with `i >= BUF_CAP` (20_memory.md R53). -/
  | bufferWriteOutside (index : Nat)
deriving DecidableEq, Repr

/-- The refusals of 60_exceptions.md R204: operations outside the interface, to which the spec gives no step. All are
safe. -/
inductive Refusal where
  /-- Raised by exec's arm of an instruction that has no meaning yet; safe. No arm is such an arm. -/
  | notModelled (mnemonic : String)
  /-- Raised by the step on a reserved operation code (30_encoding.md R82); safe. -/
  | reservedOperationCode (op : BitVec 4)
  /-- Raised by TXOPEN with `tx_open == 1` (42_tx_encoder.md R135); safe. -/
  | txOpenWhileFrameOpen
  /-- Raised by TXBYTE with `tx_open == 0` (R135); safe. -/
  | txByteWithoutFrame
  /-- Raised by TXCLOSE with `tx_open == 0` (R135); safe. -/
  | txCloseWithoutFrame
  /-- Raised by the step when BUF_CAP is below 2 (00_scope.md R6); safe. -/
  | bufCapBelowTwo
deriving DecidableEq, Repr

/-- The state after reset of a framer built with capacity `cap` (R35): no buffer cell holds a value (log 4), nothing has been
output (log 7) and nothing is pending (log 1). -/
def State.resetWith (cap : BufCap) : State where
  bufCap := cap
  rxMode := .notStarted
  rxLen := 0
  rxBuf := []
  rxCrc := crcReset
  rxOvf := false
  txCrc := crcReset
  txOpen := false
  wireOut := []
  evtOut := []
  resOut := []
  inputs := []

/-- The machine right after reset, with the default BUF_CAP (log 3). -/
def State.reset : State := State.resetWith Config.bufCap

end Sys2Proof.Machine
end

