-- ==== Sys2Proof/Machine/Flags.lean ====
section
/-! DEFINITION. The two status flags, `rx_ovf` (10_state.md R25) and `tx_open` (R27), the codes of the mode and of the events
(R21, 60_exceptions.md R190). No operation writes a flag otherwise (R30). -/

namespace Sys2Proof.Machine

/-- `rx_ovf <- v`. -/
def setRxOvf (v : Bool) (s : State) : State := { s with rxOvf := v }

/-- `tx_open <- v`. -/
def setTxOpen (v : Bool) (s : State) : State := { s with txOpen := v }

/-- The buffer is full: `rx_len == BUF_CAP` (43_rx_decoder.md R158). -/
def bufferFull (s : State) : Bool := capFull s.bufCap s.rxLen

/-- The 2-bit code of a mode (R21); the codes carry no meaning (D7). -/
def modeCode : Mode → BitVec 2
  | .notStarted => 0#2
  | .started => 1#2
  | .unescaping => 2#2

/-- The 2-bit code of what one RXBYTE reports (R190); the codes carry no meaning (D9). -/
def eventCode : Option Event → BitVec 2
  | none => 0#2
  | some (.frame _) => 1#2
  | some (.errGarbage _ _) => 2#2
  | some .errOverflow => 3#2

end Sys2Proof.Machine
end

