-- ==== Sys2Proof/Machine/Ops.lean ====
section
/-! DEFINITION. The named operations the meanings share: register writes, the output streams (00_scope.md R12), the buffer
accesses (20_memory.md R52, R53), raising an error event (60_exceptions.md R197), and the three procedures of the receive
decoder (43_rx_decoder.md R158 to R160). -/

namespace Sys2Proof.Machine

/-! ## Register writes -/

/-- `rx_mode <- m`. -/
def setRxMode (m : Mode) (s : State) : State := { s with rxMode := m }

/-- `rx_len <- n`. -/
def setRxLen (n : Nat) (s : State) : State := { s with rxLen := n }

/-- The cells of `rx_buf`. -/
def setRxBuf (m : Memory) (s : State) : State := { s with rxBuf := m }

/-- `rx_crc <- c`. -/
def setRxCrc (c : Word16) (s : State) : State := { s with rxCrc := c }

/-- `tx_crc <- c`. -/
def setTxCrc (c : Word16) (s : State) : State := { s with txCrc := c }

/-- What the caller has yet to hand over. -/
def setInputs (q : List Input) (s : State) : State := { s with inputs := q }

/-! ## Output streams -/

/-- `emit_wire` of each byte in order (R12). -/
def emitWire (bs : List Byte) (s : State) : State := { s with wireOut := s.wireOut ++ bs }

/-- `emit_evt` (R12). -/
def emitEvt (e : Event) (s : State) : State := { s with evtOut := s.evtOut ++ [e] }

/-- `result` (R12). -/
def emitResult (r : Result) (s : State) : State := { s with resOut := s.resOut ++ [r] }

/-! ## Raising an error

A signal, not a transfer of control: nothing is saved, no mode changes, and the operation that raised it carries on with
its next line (R197). There is no handler and so no return from one (R198). -/

/-- `raise GarbageFrame(c, r)` (R12, R191). -/
def raiseGarbage (fcsCalc fcsRecv : Word16) (s : State) : State := emitEvt (.errGarbage fcsCalc fcsRecv) s

/-- `raise Overflow()` (R12, R193). -/
def raiseOverflow (s : State) : State := emitEvt .errOverflow s

/-! ## Buffer accesses -/

/-- `MemRead(i, 1)`, defined only for `i < rx_len` (R52). -/
def memRead (i : Nat) (s : State) : Except Fault Byte :=
  if i < s.rxLen then
    match memLookup s.rxBuf i with
    | some b => .ok b
    | none => .error (.bufferReadUndefined i)
  else .error (.bufferReadUndefined i)

/-- The bytes `rx_buf[i .. i + n)`. -/
def memReadRange (s : State) : Nat → Nat → Except Fault (List Byte)
  | _, 0 => .ok []
  | i, n + 1 =>
    match memRead i s with
    | .error f => .error f
    | .ok b => (memReadRange s (i + 1) n).map (b :: ·)

/-- `MemWrite(i, 1, v)`, defined only for `i < BUF_CAP` (R53). -/
def memWrite (i : Nat) (v : Byte) (s : State) : Except Fault State :=
  if capAllows s.bufCap i then .ok (setRxBuf (memInsert s.rxBuf i v) s)
  else .error (.bufferWriteOutside i)

/-! ## The procedures of the receive decoder -/

/-- `rx_crc` two behind: with `rx_len >= 2` an append first folds in `rx_buf[rx_len - 2]`, `rx_len` taken before the
increment (R158, conflict C11). -/
def laggedCrc (s : State) : Except Fault Word16 :=
  if 2 ≤ s.rxLen then (memRead (s.rxLen - 2) s).map (crc16Step s.rxCrc)
  else .ok s.rxCrc

/-- `append(v)` (R158). -/
def appendByte (v : Byte) (s : State) : Except Fault State :=
  if bufferFull s then .ok (setRxOvf true s)
  else
    match laggedCrc s with
    | .error f => .error f
    | .ok c => (memWrite s.rxLen v (setRxCrc c s)).map (setRxLen (s.rxLen + 1))

/-- The receive registers of an empty frame in mode `m`. No cell of `rx_buf` is readable then, so none is listed
(R23, R53, log 4). -/
def clearRx (m : Mode) (s : State) : State :=
  setRxMode m (setRxLen 0 (setRxBuf [] (setRxCrc crcReset (setRxOvf false s))))

/-- `reopen()` (R159). -/
def reopen (s : State) : State := clearRx .started s

/-- The comparison of finalization, for `rx_len >= 2` (R160, R163, R164). -/
def judge (s : State) : Except Fault State :=
  match memRead (s.rxLen - 1) s, memRead (s.rxLen - 2) s with
  | .ok last, .ok lastButOne =>
    if finishCrc s.rxCrc = joinFcs last lastButOne then
      (memReadRange s 0 (s.rxLen - 2)).map fun payload => emitEvt (.frame payload) s
    else .ok (raiseGarbage (finishCrc s.rxCrc) (joinFcs last lastButOne) s)
  | .error f, _ => .error f
  | .ok _, .error f => .error f

/-- `finalize()`: the three tests in the order written (R160, 60_exceptions.md R195). -/
def finalize (s : State) : Except Fault State :=
  if s.rxOvf then .ok (raiseOverflow s)
  else if s.rxLen < 2 then .ok s
  else judge s

/-- A frame boundary: finalize, then re-open (R154, R156). -/
def frameBoundary (s : State) : Except Fault State := (finalize s).map reopen

/-! ## Reset -/

/-- Hardware reset: every state element at its reset value, nothing emitted (70_reset_and_hazards.md R220). The output
streams are the record of the run and stay; BUF_CAP is fixed when the hardware is built; what is still pending stays
pending (log 8). -/
def hardwareReset (s : State) : State :=
  setTxOpen false (setTxCrc crcReset (clearRx .notStarted s))

/-! ## Outcomes -/

/-- The outcome of an operation that cannot be refused. -/
def settle : Except Fault State → Host.Outcome State Fault Refusal
  | .ok s => .next s
  | .error f => .fault f

/-- The refusal of a word that decodes to no instruction (R82, R204). -/
def refusalOf : DecodeError → Refusal
  | .reservedCode op => .reservedOperationCode op

end Sys2Proof.Machine
end

