-- ==== Sys2Proof/Machine/Query.lean ====
section
/-! DEFINITION. The pure queries CRCSTEP (40_crc.md R100) and NEEDESC (41_escape.md R120). They read and write no state; their
result goes to `res_out`. -/

namespace Sys2Proof.Machine

/-- CRCSTEP crc, byte (R100). -/
def execCrcstep (crc : Word16) (byte : Byte) (s : State) : Host.Outcome State Fault Refusal :=
  .next (emitResult (.crc (crc16Step crc byte)) s)

/-- NEEDESC byte (R120). -/
def execNeedesc (byte : Byte) (s : State) : Host.Outcome State Fault Refusal :=
  .next (emitResult (.needEsc (needsEscape byte)) s)

end Sys2Proof.Machine
end

