-- ==== Sys2Proof/Machine/Receive.lean ====
section
/-! DEFINITION. The receive decoder: RXBYTE (43_rx_decoder.md R150 to R157), RXRESET (R166) and the three receive byte classes
(30_encoding.md R72). -/

namespace Sys2Proof.Machine

/-- A byte after the escape prefix: stored transformed, and back to Started (R157). -/
def storeUnescaped (b : Byte) (s : State) : Except Fault State :=
  (appendByte (escapeTransform b) s).map (setRxMode .started)

/-- The column RX.FLAG of R150's table: R151, R154, R156. -/
def wireFlag (s : State) : Except Fault State :=
  match s.rxMode with
  | .notStarted => .ok (reopen s)
  | .started => frameBoundary s
  | .unescaping => frameBoundary s

/-- The column RX.ESC: R152, R153, R157. -/
def wireEsc (s : State) : Except Fault State :=
  match s.rxMode with
  | .notStarted => .ok s
  | .started => .ok (setRxMode .unescaping s)
  | .unescaping => storeUnescaped escByte s

/-- The column RX.DATA: R152, R155, R157. -/
def wireData (b : Byte) (s : State) : Except Fault State :=
  match s.rxMode with
  | .notStarted => .ok s
  | .started => appendByte b s
  | .unescaping => storeUnescaped b s

/-- RXBYTE byte: the byte's class and the mode select the transition (R150). -/
def execRxbyte (byte : Byte) (s : State) : Host.Outcome State Fault Refusal :=
  settle (match rxClass byte with
    | .flag => wireFlag s
    | .esc => wireEsc s
    | .data => wireData byte s)

/-- RXRESET: the receive registers to their reset values, no event (R166). -/
def execRxreset (s : State) : Host.Outcome State Fault Refusal := .next (clearRx .notStarted s)

/-- RX.FLAG: the wire byte 0x7E arrives (R72, R150). -/
def execRxFlag (s : State) : Host.Outcome State Fault Refusal := settle (wireFlag s)

/-- RX.ESC: the wire byte 0x7D arrives (R72, R150). -/
def execRxEsc (s : State) : Host.Outcome State Fault Refusal := settle (wireEsc s)

/-- RX.DATA byte: any other wire byte arrives (R72, R150). -/
def execRxData (byte : Byte) (s : State) : Host.Outcome State Fault Refusal := settle (wireData byte s)

end Sys2Proof.Machine
end

