-- ==== Sys2Proof/Machine/Transmit.lean ====
section
/-! DEFINITION. The transmit encoder: TXOPEN, TXBYTE, TXCLOSE (42_tx_encoder.md R131 to R133, R135) and the six transmit byte
classes (30_encoding.md R75, 41_escape.md R122). -/

namespace Sys2Proof.Machine

/-- TXOPEN (R131); refused when a frame is open (R135). -/
def execTxopen (s : State) : Host.Outcome State Fault Refusal :=
  if s.txOpen then .refused .txOpenWhileFrameOpen
  else .next (setTxOpen true (setTxCrc crcReset (emitWire [flagByte] s)))

/-- TXBYTE byte (R132): the CRC runs over the unescaped byte; refused when no frame is open (R135). -/
def execTxbyte (byte : Byte) (s : State) : Host.Outcome State Fault Refusal :=
  if s.txOpen then .next (emitWire (stuff byte) (setTxCrc (crc16Step s.txCrc byte) s))
  else .refused .txByteWithoutFrame

/-- TXCLOSE (R133): the FCS low byte then high byte, each stuffed on its own, then the closing flag; `tx_crc` stays as it
was; refused when no frame is open (R135). -/
def execTxclose (s : State) : Host.Outcome State Fault Refusal :=
  if s.txOpen then
    let fcs := finishCrc s.txCrc
    .next (setTxOpen false
      (emitWire [flagByte] (emitWire (stuff (highByte fcs)) (emitWire (stuff (lowByte fcs)) s))))
  else .refused .txCloseWithoutFrame

/-! ## The transmit byte classes

One content byte's wire form is emitted and nothing else happens: the CRC is TXBYTE's, since the class covers FCS bytes
too, which never enter it (R75, R130). Log 5. -/

/-- The pair of a reserved byte: the prefix, then the transformed byte (R75, R121). -/
def emitPair (b : Byte) (s : State) : State := emitWire [escByte, escapeTransform b] s

/-- TX.STUFF.7E: wire form 7D 5E (R75). -/
def execTxStuff7E (s : State) : Host.Outcome State Fault Refusal := .next (emitPair flagByte s)

/-- TX.STUFF.7D: wire form 7D 5D (R75). -/
def execTxStuff7D (s : State) : Host.Outcome State Fault Refusal := .next (emitPair escByte s)

/-- TX.STUFF.11: wire form 7D 31 (R75). -/
def execTxStuff11 (s : State) : Host.Outcome State Fault Refusal := .next (emitPair xonByte s)

/-- TX.STUFF.13: wire form 7D 33 (R75). -/
def execTxStuff13 (s : State) : Host.Outcome State Fault Refusal := .next (emitPair xoffByte s)

/-- TX.STUFF.F8: wire form 7D D8 (R75). -/
def execTxStuffF8 (s : State) : Host.Outcome State Fault Refusal := .next (emitPair specialByte s)

/-- TX.LIT byte: the byte itself (R75). -/
def execTxLit (byte : Byte) (s : State) : Host.Outcome State Fault Refusal := .next (emitWire [byte] s)

end Sys2Proof.Machine
end

