-- ==== Sys2Proof/Machine/Dispatch.lean ====
section
/-! DEFINITION. One arm per instruction. -/

namespace Sys2Proof.Machine

-- The meaning of each instruction, by one direct call.
def exec (i : Instr) (s : State) : Host.Outcome State Fault Refusal :=
  match i with
  | .crcstep crc byte => Sys2Proof.Machine.execCrcstep crc byte s
  | .needesc byte => Sys2Proof.Machine.execNeedesc byte s
  | .txopen => Sys2Proof.Machine.execTxopen s
  | .txbyte byte => Sys2Proof.Machine.execTxbyte byte s
  | .txclose => Sys2Proof.Machine.execTxclose s
  | .rxbyte byte => Sys2Proof.Machine.execRxbyte byte s
  | .rxreset => Sys2Proof.Machine.execRxreset s
  | .rxFlag => Sys2Proof.Machine.execRxFlag s
  | .rxEsc => Sys2Proof.Machine.execRxEsc s
  | .rxData byte => Sys2Proof.Machine.execRxData byte s
  | .txStuff7E => Sys2Proof.Machine.execTxStuff7E s
  | .txStuff7D => Sys2Proof.Machine.execTxStuff7D s
  | .txStuff11 => Sys2Proof.Machine.execTxStuff11 s
  | .txStuff13 => Sys2Proof.Machine.execTxStuff13 s
  | .txStuffF8 => Sys2Proof.Machine.execTxStuffF8 s
  | .txLit byte => Sys2Proof.Machine.execTxLit byte s

end Sys2Proof.Machine
end

