-- ==== Sys2Proof/Machine/Fetch.lean ====
section
/-! DEFINITION. How what the caller hands over is taken and acted on (00_scope.md R8, R9, 20_memory.md R59). -/

namespace Sys2Proof.Machine

/-- An encoded operation: the decoded instruction runs; a word that decodes to none is refused (30_encoding.md R82). -/
def runWord (w : PortWord) (s : State) : Host.Outcome State Fault Refusal :=
  match decode w with
  | .ok i => exec i s
  | .error e => .refused (refusalOf e)

/-- What the caller hands over, acted on. -/
def runInput (x : Input) (s : State) : Host.Outcome State Fault Refusal :=
  match x with
  | .operation w => runWord w s
  | .hardwareReset => .next (hardwareReset s)

/-- The oldest pending input is taken and acted on. With nothing pending the framer does nothing (R9, log 2). A BUF_CAP
below 2 is refused (60_exceptions.md R204). -/
def takeNext (s : State) : Host.Outcome State Fault Refusal :=
  if capAdmissible s.bufCap then
    match s.inputs with
    | [] => .next s
    | x :: rest => runInput x (setInputs rest s)
  else .refused .bufCapBelowTwo

/-- `w` is what the caller hands over next. -/
def handOver (w : PortWord) (s : State) : State := setInputs (.operation w :: s.inputs) s

end Sys2Proof.Machine
end

