-- ==== Sys2Proof/Machine/Step.lean ====
section
/-! DEFINITION. One step of the framer. -/

namespace Sys2Proof.Machine

/-- One step: the oldest pending input is taken and acted on (log 1). -/
def step (s : State) : Host.Outcome State Fault Refusal := takeNext s

/-- The state in which the word numbered as the opcode table numbers it is what the caller hands over next (log 1,
log 6). -/
def State.withFetchWord (s : State) (nbits w : Nat) : State := handOver (tableWord nbits w) s

end Sys2Proof.Machine
end

