-- ==== Sys2Proof/Machine/Pseudo.lean ====
section
/-! DEFINITION. The pseudo-operations CRC16, FCS16, ENCODE, RXCHUNK and DECODE as sequences of primitive operations
(30_encoding.md R86), the functions on byte sequences the spec builds on, and the closed forms it gives (42_tx_encoder.md R134,
43_rx_decoder.md R172). -/

namespace Sys2Proof.Machine

/-- Operations issued one after the other, stopping at the first fault or refusal. -/
def execAll : List Instr → State → Host.Outcome State Fault Refusal
  | [], s => .next s
  | i :: rest, s =>
    match exec i s with
    | .next t => execAll rest t
    | .fault f => .fault f
    | .refused r => .refused r

/-! ## CRC16, FCS16 -/

/-- The running CRC of a sequence from accumulator `c`. -/
def crcFrom (c : Word16) (bs : List Byte) : Word16 := bs.foldl crc16Step c

/-- `crc16(s)`: the running CRC from the seed, before the final XOR (40_crc.md R104). -/
def crc16 (bs : List Byte) : Word16 := crcFrom crcReset bs

/-- `fcs16(s)` (R105). -/
def fcs16 (bs : List Byte) : Word16 := finishCrc (crc16 bs)

/-- The two FCS bytes in wire order: low, then high (20_memory.md R54). -/
def fcsBytes (bs : List Byte) : List Byte := [lowByte (fcs16 bs), highByte (fcs16 bs)]

/-- The CRCSTEPs of `CRC16 s`, each given the result of the one before (R86). -/
def crcOpsFrom : Word16 → List Byte → List Instr
  | _, [] => []
  | c, b :: bs => .crcstep c b :: crcOpsFrom (crc16Step c b) bs

/-- `CRC16 s` as operations (R86, R104). -/
def crc16Ops (bs : List Byte) : List Instr := crcOpsFrom crcReset bs

/-! ## ENCODE -/

/-- `stuffseq` (41_escape.md R122). -/
def stuffSeq (bs : List Byte) : List Byte := bs.flatMap stuff

/-- `ENCODE p` as operations (R86, R134); R137 gives its properties. -/
def encodeOps (p : List Byte) : List Instr := .txopen :: (p.map .txbyte ++ [.txclose])

/-- The wire bytes of `ENCODE p`, in closed form (R134): a flag at both ends and only stuffed content between (R137 items 1
and 2). -/
def encodeFrame (p : List Byte) : List Byte := flagByte :: (stuffSeq (p ++ fcsBytes p) ++ [flagByte])

/-! ## RXCHUNK, DECODE -/

/-- `RXCHUNK ws` as operations (R86, R165). -/
def rxchunkOps (ws : List Byte) : List Instr := ws.map .rxbyte

/-- `DECODE ws` as operations (R86, R167). -/
def decodeOps (ws : List Byte) : List Instr := .rxreset :: rxchunkOps ws

/-- `unstuff` (R124). -/
def unstuff : List Byte → List Byte
  | [] => []
  | [w] => if w = escByte then [] else [w]
  | w :: v :: rest => if w = escByte then escapeTransform v :: unstuff rest else w :: unstuff (v :: rest)

/-- A run of wire bytes ends in an escape prefix that is not itself escaped (R172). -/
def endsEscaping : List Byte → Bool
  | [] => false
  | [w] => w == escByte
  | w :: v :: rest => if w = escByte then endsEscaping rest else endsEscaping (v :: rest)

/-- The received FCS of a content sequence of at least two bytes: the last byte is the high one (30_encoding.md R85 item 2). -/
def receivedFcs (c : List Byte) : Word16 := joinFcs (c.getD (c.length - 1) 0#8) (c.getD (c.length - 2) 0#8)

/-- What a closed frame of content `c` reports (R172). -/
def classify (cap : BufCap) (c : List Byte) : Option Event :=
  if !capFits cap c.length then some .errOverflow
  else if c.length < 2 then none
  else
    let payload := c.take (c.length - 2)
    if fcs16 payload = receivedFcs c then some (.frame payload) else some (.errGarbage (fcs16 payload) (receivedFcs c))

/-- A wire sequence cut at its flag bytes: the run before the first flag and the runs after each flag (R172). -/
def cutAtFlags : List Byte → List Byte × List (List Byte)
  | [] => ([], [])
  | w :: rest =>
    if w = flagByte then ([], (cutAtFlags rest).1 :: (cutAtFlags rest).2)
    else (w :: (cutAtFlags rest).1, (cutAtFlags rest).2)

/-- The events of `DECODE ws`: every run between two flags is judged, the run before the first flag and the run after
the last are not (R172). -/
def decodeEvents (cap : BufCap) (ws : List Byte) : List Event :=
  (cutAtFlags ws).2.dropLast.filterMap fun g => classify cap (unstuff g)

end Sys2Proof.Machine
end

