-- ==== Sys2Proof/Safety.lean ====
section
/-! DEFINITION. What holds in every state of a run: the invariants of 10_state.md R32. -/

namespace Sys2Proof.Safety

open Sys2Proof.Machine

/-- The buffer holds exactly the content bytes below `rx_len`, and no more than BUF_CAP of them (R22, R23; invariant 2 of
R32). -/
structure BufferOk (s : State) : Prop where
  holds : s.rxBuf.holds s.rxLen
  fits : capFits s.bufCap s.rxLen = true

/-- The content of the open frame, `rx_buf[0 .. rx_len)`. -/
def content (s : State) : List Byte := memBytes s.rxBuf

/-- The receive-side invariants of R32, with an admissible BUF_CAP (00_scope.md R6). -/
structure Invariants (s : State) : Prop where
  cap : capAdmissible s.bufCap = true
  buffer : BufferOk s
  /-- Invariant 3: the accumulator is two bytes behind. -/
  lag : s.rxMode ≠ .notStarted → s.rxOvf = false → s.rxCrc = crc16 ((content s).take (s.rxLen - 2))
  /-- Invariant 4. -/
  overflow : s.rxOvf = true → s.rxMode ≠ .notStarted ∧ bufferFull s = true
  /-- Invariant 5. -/
  idle : s.rxMode = .notStarted → s.rxLen = 0 ∧ s.rxCrc = crcReset ∧ s.rxOvf = false

/-- The receive registers that decide what a later wire byte does (43_rx_decoder.md R168). -/
def rxView (s : State) : BufCap × Mode × Nat × Memory × Word16 × Bool :=
  (s.bufCap, s.rxMode, s.rxLen, s.rxBuf, s.rxCrc, s.rxOvf)

/-- The transmit registers. -/
def txView (s : State) : Word16 × Bool := (s.txCrc, s.txOpen)

/-- The operations of the transmit side. -/
def isTransmit : Instr → Bool
  | .txopen | .txbyte _ | .txclose => true
  | .txStuff7E | .txStuff7D | .txStuff11 | .txStuff13 | .txStuffF8 | .txLit _ => true
  | .crcstep _ _ | .needesc _ | .rxbyte _ | .rxreset | .rxFlag | .rxEsc | .rxData _ => false

/-- The operations of the receive side. -/
def isReceive : Instr → Bool
  | .rxbyte _ | .rxreset | .rxFlag | .rxEsc | .rxData _ => true
  | .crcstep _ _ | .needesc _ | .txopen | .txbyte _ | .txclose => false
  | .txStuff7E | .txStuff7D | .txStuff11 | .txStuff13 | .txStuffF8 | .txLit _ => false

/-- The payload byte of a TXBYTE. -/
def txPayload : Instr → Option Byte
  | .txbyte b => some b
  | .crcstep _ _ | .needesc _ | .txopen | .txclose | .rxbyte _ | .rxreset | .rxFlag | .rxEsc | .rxData _ => none
  | .txStuff7E | .txStuff7D | .txStuff11 | .txStuff13 | .txStuffF8 | .txLit _ => none

/-- The transmit order of 42_tx_encoder.md R135: an operation that `exec` refuses is one out of this order. -/
def inOrder : Instr → State → Bool
  | .txopen, s => !s.txOpen
  | .txbyte _, s => s.txOpen
  | .txclose, s => s.txOpen
  | .crcstep _ _, _ | .needesc _, _ | .rxbyte _, _ | .rxreset, _ | .rxFlag, _ | .rxEsc, _ | .rxData _, _ => true
  | .txStuff7E, _ | .txStuff7D, _ | .txStuff11, _ | .txStuff13, _ | .txStuffF8, _ | .txLit _, _ => true

end Sys2Proof.Safety
end

