-- ==== Sys2Proof/Certificates/Slice0/Obligations.lean ====
section
/-! DEFINITION. The statements about the framer, each with the rule of spec/ it comes from. Where a statement gives the next
state as a record update, every field not named in it is unchanged: that is the frame. -/

open Sys2Proof Sys2Proof.Machine Sys2Proof.Safety

/-! ## Encoding -/

/-- No operand bit is lost: decoding the word of a well-formed instruction gives it back (30_encoding.md R81, R82, R87). -/
def Obligations.DecodeEncodeReturnsInstruction : Prop :=
  ∀ i : Instr, i.wf = true → decode (encode i) = .ok i

/-- The other direction: a word that decodes, decodes to a well-formed instruction whose own word has the same bits in
every field the operation looks at (R81). -/
def Obligations.DecodedWordReencodes : Prop :=
  ∀ (w : PortWord) (i : Instr), decode w = .ok i →
    i.wf = true ∧ wordFormat (encode i) = wordFormat w ∧ wordBits (encode i) = wordBits w &&& usedMask i

/-- The decoder picks the row that the matching rule of R87 picks, and refuses a word exactly where the rule finds no
row. -/
def Obligations.DecoderFollowsOpcodeTable : Prop :=
  ∀ w : PortWord,
    (lookupRow w).map Row.mnemonic =
      match decode w with
      | .ok i => some (mnemonicOf i)
      | .error _ => none

/-- A field an operation ignores may hold any value (R81): tuples that agree on the fields an operation looks at are the same
operation. -/
def Obligations.IgnoredFieldsDoNotMatter : Prop :=
  ∀ (v w : Tuple) (i : Instr), decode (.command v) = .ok i → v &&& usedMask i = w &&& usedMask i →
    decode (.command w) = .ok i

/-- Exactly the operation codes 0x0 and 0x8 to 0xF are refused as reserved (R82, decision D4). -/
def Obligations.ReservedCodesAreRefused : Prop :=
  ∀ (s : State) (w : Tuple) (rest : List Input), capAdmissible s.bufCap = true →
    s.inputs = .operation (.command w) :: rest →
    (step s = .refused (.reservedOperationCode (tupleOp w)) ↔ tupleOp w = 0#4 ∨ 8 ≤ (tupleOp w).toNat)

/-- Words written out from R81, R82 and the opcode table (the first seven are the `CW` columns of 95_test_vectors.md). -/
def Obligations.SampleWordsDecode : Prop :=
  decode (.command 0x1123456#28) = .ok (.crcstep 0x1234#16 0x56#8) ∧
  decode (.command 0x2ABCD5E#28) = .ok (.needesc 0x5E#8) ∧
  decode (.command 0x3000000#28) = .ok .txopen ∧
  decode (.command 0x400007E#28) = .ok (.txbyte 0x7E#8) ∧
  decode (.command 0x5000000#28) = .ok .txclose ∧
  decode (.command 0x6000041#28) = .ok (.rxbyte 0x41#8) ∧
  decode (.command 0x7000000#28) = .ok .rxreset ∧
  decode (.wire 0x7E#8) = .ok .rxFlag ∧ decode (.wire 0x7D#8) = .ok .rxEsc ∧
  decode (.wire 0x11#8) = .ok (.rxData 0x11#8) ∧
  decode (.content 0x7E#8) = .ok .txStuff7E ∧ decode (.content 0x7D#8) = .ok .txStuff7D ∧
  decode (.content 0x11#8) = .ok .txStuff11 ∧ decode (.content 0x13#8) = .ok .txStuff13 ∧
  decode (.content 0xF8#8) = .ok .txStuffF8 ∧ decode (.content 0x5E#8) = .ok (.txLit 0x5E#8)

/-! ## The step -/

/-- One step takes the oldest pending input: an operation word runs as its instruction, a hardware reset resets, and with
nothing pending nothing happens (the queue and the idle step are the model's choices, log 1, log 2, log 8). -/
def Obligations.StepRunsDecodedInstruction : Prop :=
  ∀ s : State, capAdmissible s.bufCap = true →
    (s.inputs = [] → step s = .next s) ∧
    (∀ rest, s.inputs = .hardwareReset :: rest → step s = .next (hardwareReset { s with inputs := rest })) ∧
    (∀ w rest i, s.inputs = .operation w :: rest → decode w = .ok i → step s = exec i { s with inputs := rest }) ∧
    (∀ nbits w i, decodeTableWord nbits w = some i → step (s.withFetchWord nbits w) = exec i s)

/-- A BUF_CAP below 2 is refused, and no step changes BUF_CAP (00_scope.md R6, 10_state.md R28; its being a field of State is
the model's choice, log 3). -/
def Obligations.BufCapIsFixedAndAtLeastTwo : Prop :=
  (∀ s : State, (∃ n, s.bufCap = .bytes n ∧ n < 2) ↔ step s = .refused .bufCapBelowTwo) ∧
  ∀ s t : State, step s = .next t → t.bufCap = s.bufCap

/-- Operations take effect one at a time in issue order (20_memory.md R59): running the machine on a queue of encoded
operations is executing them one after the other. That the nine byte-class rows are instructions of their own is the model's
choice (log 5). -/
def Obligations.QueuedOperationsRunInIssueOrder : Prop :=
  ∀ (is : List Instr) (s : State), (∀ i ∈ is, i.wf = true) → capAdmissible s.bufCap = true → s.inputs = [] →
    Host.Core.run Sys2Proof.core is.length { s with inputs := is.map fun i => Input.operation (encode i) } =
      execAll is s

/-! ## The CRC unit -/

/-- CRCSTEP (40_crc.md R100; that the entry is combined with `crc >> 8` by exclusive or is the spec's own reading, G2):
its code is 0x1, the result goes to `res_out`, nothing else changes. -/
def Obligations.CrcstepGivesTableUpdate : Prop :=
  ∀ (crc : Word16) (byte : Byte) (s : State),
    decode (.command (makeTuple 0x1#4 crc byte)) = .ok (.crcstep crc byte) ∧
    exec (.crcstep crc byte) s =
      .next { s with resOut := s.resOut ++
        [.crc (crcTable.getD (((crc ^^^ byte.setWidth 16).setWidth 8).toNat) 0#16 ^^^ (crc >>> 8))] }

/-- The printed table is the output of the loop of R102 on each index (R101; general knowledge of the spec's, G1). -/
def Obligations.CrcTableIsLoopOutput : Prop :=
  crcTable.length = 256 ∧ ∀ i : Byte, crcTable[i.toNat]? = some (crcLoop 8 (i.setWidth 16))

/-- The table form equals the bit-serial form (R102; general knowledge of the spec's). -/
def Obligations.CrcstepIsBitSerial : Prop :=
  ∀ (crc : Word16) (byte : Byte), crc16Step crc byte = crcLoop 8 (crc ^^^ byte.setWidth 16)

/-- `CRC16 s` as operations (R104): its CRCSTEPs put the running CRC of every prefix into `res_out`, the last being
`crc16 s`; the empty sequence gives 0xFFFF, and one more byte is one more step. -/
def Obligations.CrcOperationsGiveRunningCrc : Prop :=
  crc16 [] = 0xFFFF#16 ∧ (∀ bs b, crc16 (bs ++ [b]) = crc16Step (crc16 bs) b) ∧
  ∀ (bs : List Byte) (s : State),
    execAll (crc16Ops bs) s =
      .next { s with resOut := s.resOut ++ (List.range bs.length).map fun k => Result.crc (crc16 (bs.take (k + 1))) }

/-- The residue (R107): a payload followed by its own FCS, low byte first, leaves 0xF0B8 before any final XOR, and among
contents of at least two bytes only the valid ones do. -/
def Obligations.ValidContentLeavesResidue : Prop :=
  (∀ p : List Byte, crc16 (p ++ [lowByte (fcs16 p), highByte (fcs16 p)]) = 0xF0B8#16) ∧
  ∀ c : List Byte, 2 ≤ c.length → (crc16 c = 0xF0B8#16 ↔ fcs16 (c.take (c.length - 2)) = receivedFcs c)

/-- One damaged byte (the model's own inference from the CRC step and table of 40_crc.md R100 to R102, log 11): of two contents
that differ in exactly one byte at most one is a valid frame. The spec says this for one damaged bit only (R108, its general
knowledge G6) and promises no more (70_reset_and_hazards.md R228). -/
def Obligations.OneByteDamageIsDetected : Prop :=
  ∀ (cap : BufCap) (a b : List Byte) (x y : Byte) (p q : List Byte), x ≠ y →
    classify cap (a ++ x :: b) = some (.frame p) → classify cap (a ++ y :: b) ≠ some (.frame q)

/-! ## The escape unit -/

/-- NEEDESC (41_escape.md R120): its code is 0x2 whatever the crc field; the result is 1 for the five members and 0 for every
other byte; nothing else changes. -/
def Obligations.NeedescTestsEscapeSet : Prop :=
  ∀ (crc : Word16) (byte : Byte) (s : State),
    decode (.command (makeTuple 0x2#4 crc byte)) = .ok (.needesc byte) ∧
    exec (.needesc byte) s =
      .next { s with resOut := s.resOut ++
        [.needEsc (decide (byte ∈ [0x7E#8, 0x7D#8, 0x11#8, 0x13#8, 0xF8#8]))] }

/-- Un-stuffing inverts stuffing, also with more wire bytes behind (R124). -/
def Obligations.UnstuffInvertsStuffing : Prop :=
  ∀ c ws : List Byte, unstuff (stuffSeq c ++ ws) = c ++ unstuff ws

/-- Stuffing loses nothing and adds one byte for each reserved byte (R123 items 2 and 3), so a frame of n payload bytes takes
between n + 4 and 2n + 6 wire bytes (30_encoding.md R76). -/
def Obligations.StuffedLengths : Prop :=
  (∀ a b : List Byte, stuffSeq a = stuffSeq b → a = b) ∧
  (∀ c : List Byte, (stuffSeq c).length = c.length + c.countP needsEscape) ∧
  ∀ p : List Byte, p.length + 4 ≤ (encodeFrame p).length ∧ (encodeFrame p).length ≤ 2 * p.length + 6

/-! ## The transmit encoder -/

/-- TXOPEN (42_tx_encoder.md R131, decision D10): its code is 0x3 whatever the other fields; from `tx_open == 0` it emits the
flag, seeds `tx_crc` and opens; otherwise it is refused. -/
def Obligations.TxopenOpensFrame : Prop :=
  ∀ (crc : Word16) (byte : Byte) (s : State),
    decode (.command (makeTuple 0x3#4 crc byte)) = .ok .txopen ∧
    (s.txOpen = false →
      exec .txopen s = .next { s with wireOut := s.wireOut ++ [0x7E#8], txCrc := 0xFFFF#16, txOpen := true }) ∧
    (s.txOpen = true → exec .txopen s = .refused .txOpenWhileFrameOpen)

/-- TXBYTE (R132): its code is 0x4 whatever the crc field; with a frame open it advances `tx_crc` over the unescaped byte and
emits 0x7D and the transformed byte for a reserved byte, the byte itself otherwise (R130 step 2); with none open it is
refused (R135, decision D10, log 10). -/
def Obligations.TxbyteSendsStuffedByte : Prop :=
  ∀ (crc : Word16) (byte : Byte) (s : State),
    decode (.command (makeTuple 0x4#4 crc byte)) = .ok (.txbyte byte) ∧
    (s.txOpen = true →
      exec (.txbyte byte) s =
        .next { s with
          txCrc := crc16Step s.txCrc byte
          wireOut := s.wireOut ++ if needsEscape byte then [0x7D#8, byte ^^^ 0x20#8] else [byte] }) ∧
    (s.txOpen = false → exec (.txbyte byte) s = .refused .txByteWithoutFrame)

/-- TXCLOSE (R133): its code is 0x5 whatever the other fields; with a frame open it emits the FCS low byte then high byte,
each stuffed on its own, then the flag (R130 steps 3 to 5), leaves `tx_crc` as it was and closes; with none open it is refused
(R135, decision D10, log 10). -/
def Obligations.TxcloseSendsFcsAndFlag : Prop :=
  ∀ (crc : Word16) (byte : Byte) (s : State),
    decode (.command (makeTuple 0x5#4 crc byte)) = .ok .txclose ∧
    (s.txOpen = true →
      exec .txclose s =
        .next { s with
          wireOut := s.wireOut ++
            ([(s.txCrc ^^^ 0xFFFF#16).extractLsb' 0 8, (s.txCrc ^^^ 0xFFFF#16).extractLsb' 8 8].flatMap
              fun b => if needsEscape b then [0x7D#8, b ^^^ 0x20#8] else [b]) ++ [0x7E#8]
          txOpen := false }) ∧
    (s.txOpen = false → exec .txclose s = .refused .txCloseWithoutFrame)

/-- The transmit order (R135, decision D10): an instruction is refused exactly where it breaks the order, whatever else the
state holds. The refusals are the spec's own for the three primitives; that the nine byte-class rows are instructions of
their own, and that none of them is refused, a TX row with no frame open included, is the model's choice (log 5), the refusal
as an outcome log 10. -/
def Obligations.OnlyMisorderedTransmitIsRefused : Prop :=
  ∀ (i : Instr) (s : State), (∃ r, exec i s = .refused r) ↔ inOrder i s = false

/-- `ENCODE p` (R134): the primitives emit the document's frame, flag, stuffed payload and FCS, flag, and leave the frame
closed. -/
def Obligations.EncodeEmitsFrame : Prop :=
  ∀ (p : List Byte) (s : State), s.txOpen = false →
    execAll (encodeOps p) s = .next { s with wireOut := s.wireOut ++ encodeFrame p, txCrc := crc16 p }

/-- The transmit guarantee (30_encoding.md R78): one `ENCODE` puts a flag first and last, no raw flag, XON, XOFF or special byte
between them, and 0x7D only as the first byte of one of the five pairs. -/
def Obligations.EncodedStreamHidesReservedBytes : Prop :=
  ∀ (p : List Byte) (s : State), s.txOpen = false →
    ∃ t body, execAll (encodeOps p) s = .next t ∧ t.wireOut = s.wireOut ++ 0x7E#8 :: body ++ [0x7E#8] ∧
      (∀ b ∈ body, b ≠ 0x7E#8 ∧ b ≠ 0x11#8 ∧ b ≠ 0x13#8 ∧ b ≠ 0xF8#8) ∧
      ∀ pre post, body = pre ++ 0x7D#8 :: post →
        ∃ v rest, post = v :: rest ∧ v ∈ [0x5E#8, 0x5D#8, 0x31#8, 0x33#8, 0xD8#8]

/-- `ENCODE` is injective (R137 item 4). -/
def Obligations.EncodedFramesDiffer : Prop :=
  ∀ p q : List Byte, encodeFrame p = encodeFrame q → p = q

/-- `tx_crc` (10_state.md R26): after a TXOPEN, with any receive operations and queries between the TXBYTEs, it holds the
running CRC of the payload bytes given since, and that is what TXCLOSE then sends. That a TX class row among the operations
leaves `tx_crc` as it is is the model's choice (log 5). -/
def Obligations.TxCrcCoversPayloadSinceTxopen : Prop :=
  ∀ (ops : List Instr) (s t : State), s.txOpen = false → (∀ i ∈ ops, i ≠ .txopen ∧ i ≠ .txclose) →
    execAll (.txopen :: ops) s = .next t →
    t.txOpen = true ∧ t.txCrc = crc16 (ops.filterMap txPayload) ∧
    ∃ u, exec .txclose t = .next u ∧
      u.wireOut = t.wireOut ++ stuffSeq (fcsBytes (ops.filterMap txPayload)) ++ [0x7E#8]

/-- The six transmit class rows (30_encoding.md R75, 41_escape.md R122; that a row on its own only emits is the model's reading,
log 5): each emits its wire form and changes nothing else. -/
def Obligations.TransmitClassesEmitWireForms : Prop :=
  ∀ s : State,
    exec .txStuff7E s = .next { s with wireOut := s.wireOut ++ [0x7D#8, 0x5E#8] } ∧
    exec .txStuff7D s = .next { s with wireOut := s.wireOut ++ [0x7D#8, 0x5D#8] } ∧
    exec .txStuff11 s = .next { s with wireOut := s.wireOut ++ [0x7D#8, 0x31#8] } ∧
    exec .txStuff13 s = .next { s with wireOut := s.wireOut ++ [0x7D#8, 0x33#8] } ∧
    exec .txStuffF8 s = .next { s with wireOut := s.wireOut ++ [0x7D#8, 0xD8#8] } ∧
    ∀ b, exec (.txLit b) s = .next { s with wireOut := s.wireOut ++ [b] }

/-- TXBYTE sends its byte as the byte's class row says (R75): it is the CRC step and then the row. That a row is an instruction
of its own, which only emits, is the model's choice and reading (log 5), and the equation rests on it. -/
def Obligations.TxbyteFollowsItsClassRow : Prop :=
  ∀ (b : Byte) (s : State), s.txOpen = true →
    exec (.txbyte b) s = exec (decodeContent b) { s with txCrc := crc16Step s.txCrc b }

/-! ## The receive decoder -/

/-- RXBYTE in NotStarted (43_rx_decoder.md R151, R152): its code is 0x6 whatever the crc field (R150, 30_encoding.md R82); a flag
opens an empty frame; every other byte, the escape byte included, changes nothing. That the re-open lists no buffer cell is
the model's reading (log 4; R159 says that the bytes are not cleared). -/
def Obligations.BytesBeforeFirstFlagAreDiscarded : Prop :=
  ∀ (crc : Word16) (b : Byte) (s : State), s.rxMode = .notStarted →
    decode (.command (makeTuple 0x6#4 crc b)) = .ok (.rxbyte b) ∧
    exec (.rxbyte 0x7E#8) s =
      .next { s with rxMode := .started, rxLen := 0, rxBuf := [], rxCrc := 0xFFFF#16, rxOvf := false } ∧
    (b ≠ 0x7E#8 → exec (.rxbyte b) s = .next s)

/-- The escape byte in Started (R153): only the mode changes. -/
def Obligations.EscapeByteArmsUnescaping : Prop :=
  ∀ s : State, s.rxMode = .started → exec (.rxbyte 0x7D#8) s = .next { s with rxMode := .unescaping }

/-- A data byte in Started, with room (R155): it is stored unchanged at index `rx_len`, and `rx_crc` stays two behind by taking
in the last-but-one byte stored so far. -/
def Obligations.DataByteIsStoredUnchanged : Prop :=
  ∀ (b : Byte) (s : State), BufferOk s → s.rxMode = .started → bufferFull s = false → b ≠ 0x7E#8 → b ≠ 0x7D#8 →
    exec (.rxbyte b) s =
      .next { s with
        rxCrc := if 2 ≤ s.rxLen then crc16Step s.rxCrc ((content s).getD (s.rxLen - 2) 0#8) else s.rxCrc
        rxBuf := s.rxBuf ++ [(s.rxLen, b)]
        rxLen := s.rxLen + 1 }

/-- Any byte but the flag in Unescaping, with room (R157): it is stored transformed and the mode returns to Started; the
escape byte itself is no exception. -/
def Obligations.EscapedByteIsStoredTransformed : Prop :=
  ∀ (b : Byte) (s : State), BufferOk s → s.rxMode = .unescaping → bufferFull s = false → b ≠ 0x7E#8 →
    exec (.rxbyte b) s =
      .next { s with
        rxCrc := if 2 ≤ s.rxLen then crc16Step s.rxCrc ((content s).getD (s.rxLen - 2) 0#8) else s.rxCrc
        rxBuf := s.rxBuf ++ [(s.rxLen, b ^^^ 0x20#8)]
        rxLen := s.rxLen + 1
        rxMode := .started }

/-- A content byte at a full buffer (R158, decision D6): it is dropped, `rx_ovf` is set, and nothing else moves but the mode
back from Unescaping. -/
def Obligations.ContentByteAtFullBufferIsDropped : Prop :=
  ∀ (b : Byte) (s : State), bufferFull s = true → b ≠ 0x7E#8 →
    (s.rxMode = .started → b ≠ 0x7D#8 → exec (.rxbyte b) s = .next { s with rxOvf := true }) ∧
    (s.rxMode = .unescaping → exec (.rxbyte b) s = .next { s with rxOvf := true, rxMode := .started })

/-- A flag with a frame open and not overflowed (R154, R156, R160, R161, R163, R164): fewer than two bytes report nothing; otherwise
the recomputed FCS is compared with the little-endian last two bytes and FRAME or ERR_GARBAGE is reported; the frame is
re-opened in every case, from Unescaping as from Started. Where the invariants hold the recomputed FCS is that of all bytes
but the last two (10_state.md R32, the spec's own derivation). That the re-open lists no buffer cell is the model's reading
(log 4; R159 says that the bytes are not cleared). -/
def Obligations.FlagJudgesOpenFrame : Prop :=
  ∀ s : State, BufferOk s → s.rxMode = .started ∨ s.rxMode = .unescaping → s.rxOvf = false →
    (Invariants s → s.rxCrc ^^^ 0xFFFF#16 = fcs16 ((content s).take (s.rxLen - 2))) ∧
    exec (.rxbyte 0x7E#8) s =
      .next { s with
        rxMode := .started, rxLen := 0, rxBuf := [], rxCrc := 0xFFFF#16, rxOvf := false
        evtOut := s.evtOut ++
          if s.rxLen < 2 then []
          else if s.rxCrc ^^^ 0xFFFF#16 =
              (content s).getD (s.rxLen - 1) 0#8 ++ (content s).getD (s.rxLen - 2) 0#8 then
            [.frame ((content s).take (s.rxLen - 2))]
          else
            [.errGarbage (s.rxCrc ^^^ 0xFFFF#16)
              ((content s).getD (s.rxLen - 1) 0#8 ++ (content s).getD (s.rxLen - 2) 0#8)] }

/-- A flag with an overflowed frame open (R162, decision D6): ERR_OVERFLOW without any comparison, and the frame is
re-opened, with no buffer cell listed (the model's reading, log 4). -/
def Obligations.FlagReportsOverflow : Prop :=
  ∀ s : State, s.rxMode = .started ∨ s.rxMode = .unescaping → s.rxOvf = true →
    exec (.rxbyte 0x7E#8) s =
      .next { s with
        rxMode := .started, rxLen := 0, rxBuf := [], rxCrc := 0xFFFF#16, rxOvf := false
        evtOut := s.evtOut ++ [.errOverflow] }

/-- RXRESET (R166, decision D15): its code is 0x7 whatever the other fields; the receive registers take their reset values, no
event, nothing else changes; and the receive side is then as after a hardware reset (70_reset_and_hazards.md R222). That no
buffer cell is listed is the model's reading (log 4). -/
def Obligations.RxresetClearsReceiver : Prop :=
  ∀ (crc : Word16) (byte : Byte) (s : State),
    decode (.command (makeTuple 0x7#4 crc byte)) = .ok .rxreset ∧
    exec .rxreset s =
      .next { s with rxMode := .notStarted, rxLen := 0, rxBuf := [], rxCrc := 0xFFFF#16, rxOvf := false } ∧
    ∀ t, exec .rxreset s = .next t → rxView t = rxView (hardwareReset s)

/-- The three receive class rows (30_encoding.md R72): a wire byte of format RXW completes, and does what RXBYTE does with that
byte (that a row is an instruction of its own is the model's choice, log 5). -/
def Obligations.ReceiveClassRowsActAsRxbyte : Prop :=
  ∀ s : State, BufferOk s →
    (∃ t, exec .rxFlag s = .next t ∧ exec (.rxbyte 0x7E#8) s = .next t) ∧
    (∃ t, exec .rxEsc s = .next t ∧ exec (.rxbyte 0x7D#8) s = .next t) ∧
    ∀ b, b ≠ 0x7E#8 → b ≠ 0x7D#8 → ∃ t, exec (.rxData b) s = .next t ∧ exec (.rxbyte b) s = .next t

/-- Only a flag that closes a frame emits an event, and at most one; no other operation emits any (60_exceptions.md R190,
R196). That the nine byte-class rows are instructions of their own is the model's choice (log 5). -/
def Obligations.OnlyFlagEmitsAtMostOneEvent : Prop :=
  ∀ (i : Instr) (s t : State), exec i s = .next t →
    t.evtOut = s.evtOut ∨
      ∃ e, t.evtOut = s.evtOut ++ [e] ∧ s.rxMode ≠ .notStarted ∧ (i = .rxbyte 0x7E#8 ∨ i = .rxFlag)

/-- A FRAME event is exactly the delivery of a valid content (30_encoding.md R79): with an open frame that has not overflowed,
the flag reports FRAME(p) if and only if the content is p followed by its own FCS, low byte first. -/
def Obligations.FrameDeliveredIffContentValid : Prop :=
  ∀ (s : State) (p : List Byte), Invariants s → s.rxMode ≠ .notStarted → s.rxOvf = false →
    ((∃ t, exec (.rxbyte 0x7E#8) s = .next t ∧ t.evtOut = s.evtOut ++ [.frame p]) ↔
      content s = p ++ [lowByte (fcs16 p), highByte (fcs16 p)])

/-- The fields of the events (60_exceptions.md R190): the two values of ERR_GARBAGE always differ, and a FRAME's payload has
at most BUF_CAP - 2 bytes. That the nine byte-class rows are instructions of their own is the model's choice (log 5). -/
def Obligations.EventFieldsAreInRange : Prop :=
  ∀ (i : Instr) (s t : State) (e : Event), BufferOk s → exec i s = .next t → t.evtOut = s.evtOut ++ [e] →
    (∀ c r, e = .errGarbage c r → c ≠ r) ∧ ∀ p, e = .frame p → capFits s.bufCap (p.length + 2) = true

/-- Splitting a stream into chunks changes nothing (43_rx_decoder.md R165), and no chunk ever stops. -/
def Obligations.ChunkingDoesNotMatter : Prop :=
  ∀ (a b : List Byte) (s : State), BufferOk s →
    ∃ t u, execAll (rxchunkOps a) s = .next t ∧ execAll (rxchunkOps b) t = .next u ∧
      execAll (rxchunkOps (a ++ b)) s = .next u

/-- `DECODE ws` in closed form (R172), from every state and for every BUF_CAP: the events are those of the runs between the
flags, each un-stuffed and judged on its own; the run before the first flag is discarded and the one after the last is the
frame left open. That a receiver with no frame open lists no buffer cell is the model's reading (log 4). -/
def Obligations.DecodeHasClosedForm : Prop :=
  ∀ (ws : List Byte) (s : State),
    ∃ t, execAll (decodeOps ws) s = .next t ∧
      t.evtOut = s.evtOut ++ decodeEvents s.bufCap ws ∧
      txView t = txView s ∧ t.wireOut = s.wireOut ∧ t.resOut = s.resOut ∧
      match (cutAtFlags ws).2.getLast? with
      | none => rxView t = (s.bufCap, .notStarted, 0, [], 0xFFFF#16, false)
      | some g =>
        t.rxMode = (if endsEscaping g then .unescaping else .started) ∧
        content t = capTake s.bufCap (unstuff g) ∧ BufferOk t

/-- Round trip (R169): what the transmitter puts on the wire for `p`, decoded, is exactly one event, FRAME(p) when it fits and
ERR_OVERFLOW otherwise, for every BUF_CAP of at least 2. -/
def Obligations.RoundTripDeliversPayload : Prop :=
  ∀ (p : List Byte) (s : State), s.txOpen = false → capAdmissible s.bufCap = true →
    ∃ u ws t, execAll (encodeOps p) s = .next u ∧ u.wireOut = s.wireOut ++ ws ∧
      execAll (decodeOps ws) u = .next t ∧
      t.evtOut = s.evtOut ++ [if capFits s.bufCap (p.length + 2) then .frame p else .errOverflow]

/-- Two frames (R171): sent one after the other, with both middle flags or with one of the two removed, they decode to the two
frames in order. -/
def Obligations.TwoFramesDecodeInOrder : Prop :=
  ∀ (p q : List Byte) (s : State), capFits s.bufCap (p.length + 2) = true → capFits s.bufCap (q.length + 2) = true →
    (∃ t, execAll (decodeOps (encodeFrame p ++ encodeFrame q)) s = .next t ∧
      t.evtOut = s.evtOut ++ [.frame p, .frame q]) ∧
    ∃ t, execAll (decodeOps (encodeFrame p ++ (encodeFrame q).tail)) s = .next t ∧
      t.evtOut = s.evtOut ++ [.frame p, .frame q]

/-- Single-bit damage on the wire (R170 case 1): one bit of one wire byte between the flags of a frame is flipped, the byte
was not 0x7D and does not become 0x7E or 0x7D; then exactly one ERR_GARBAGE is reported and no frame. -/
def Obligations.SingleBitFlipIsGarbage : Prop :=
  ∀ (p pre post : List Byte) (w : Byte) (k : Nat) (s : State), k < 8 → capFits s.bufCap (p.length + 2) = true →
    encodeFrame p = 0x7E#8 :: (pre ++ w :: post) ++ [0x7E#8] →
    w ≠ 0x7D#8 → w ^^^ (1#8 <<< k) ≠ 0x7E#8 → w ^^^ (1#8 <<< k) ≠ 0x7D#8 →
    ∃ t c r, execAll (decodeOps (0x7E#8 :: (pre ++ (w ^^^ (1#8 <<< k)) :: post) ++ [0x7E#8])) s = .next t ∧
      t.evtOut = s.evtOut ++ [.errGarbage c r]

/-- The remaining flip of case 1 (R170 case 3, its parenthesis): the second byte of a pair 7D 5D becomes 7D. No prefix is
created, so exactly one ERR_GARBAGE is reported and no frame. -/
def Obligations.FlipOfEscapedEscapeIsGarbage : Prop :=
  ∀ (p pre post : List Byte) (s : State), capFits s.bufCap (p.length + 2) = true →
    encodeFrame p = 0x7E#8 :: (pre ++ 0x7D#8 :: 0x5D#8 :: post) ++ [0x7E#8] →
    ∃ t c r, execAll (decodeOps (0x7E#8 :: (pre ++ 0x7D#8 :: 0x7D#8 :: post) ++ [0x7E#8])) s = .next t ∧
      t.evtOut = s.evtOut ++ [.errGarbage c r]

/-- Resync (R168): whatever two receivers with the same BUF_CAP had taken in before, from the next flag on they report the same
events and reach the same receive state; the flag itself adds at most one event to each. That the re-open leaves the same
buffer cells in both, none, is the model's reading (log 4). -/
def Obligations.FlagResynchronises : Prop :=
  ∀ (s s' : State) (ws : List Byte), BufferOk s → BufferOk s' → s.bufCap = s'.bufCap →
    ∃ t t' e e' es, execAll (rxchunkOps (0x7E#8 :: ws)) s = .next t ∧
      execAll (rxchunkOps (0x7E#8 :: ws)) s' = .next t' ∧
      rxView t = rxView t' ∧ e.length ≤ 1 ∧ e'.length ≤ 1 ∧
      t.evtOut = s.evtOut ++ e ++ es ∧ t'.evtOut = s'.evtOut ++ e' ++ es

/-! ## The whole machine -/

/-- Reset (10_state.md R35, decision D8; the empty output streams, the empty queue and the unbounded BUF_CAP are the model's
choices, log 1, log 3, log 7; that no buffer cell is listed is log 4): the values after reset, and the hardware reset as an
input puts every element back there, emitting nothing (70_reset_and_hazards.md R220). -/
def Obligations.ResetLeavesStatedValues : Prop :=
  (State.reset.rxMode = .notStarted ∧ State.reset.rxLen = 0 ∧ State.reset.rxCrc = 0xFFFF#16 ∧
    State.reset.rxOvf = false ∧ State.reset.txOpen = false ∧ State.reset.txCrc = 0xFFFF#16) ∧
  ∀ (s : State) (rest : List Input), capAdmissible s.bufCap = true → s.inputs = .hardwareReset :: rest →
    step s = .next { s with
      rxMode := .notStarted, rxLen := 0, rxBuf := [], rxCrc := 0xFFFF#16, rxOvf := false
      txCrc := 0xFFFF#16, txOpen := false, inputs := rest }

/-- The invariants 1 to 5 of 10_state.md R32 hold after reset, whatever the admissible BUF_CAP. -/
def Obligations.InvariantsAtReset : Prop :=
  Invariants State.reset ∧ ∀ cap, capAdmissible cap = true → Invariants (State.resetWith cap)

/-- Every step keeps the invariants 1 to 5 of R32 (the sixth is TxCrcCoversPayloadSinceTxopen), from every state that has
them: the accumulator stays two behind, overflow means a full buffer and an open frame, NotStarted means the reset values,
the buffer holds exactly `rx_len` bytes within BUF_CAP. That the nine byte-class rows are instructions of their own is the
model's choice (log 5). -/
def Obligations.EveryStepKeepsInvariants : Prop :=
  ∀ s t : State, Invariants s → step s = .next t → Invariants t

/-- No operation blocks or fails (60_exceptions.md R207, 43_rx_decoder.md R150): with the buffer as every run has it, every
instruction that keeps the transmit order completes, in all modes and on all byte values. That the nine byte-class rows run
as instructions of their own, TX rows with no frame open included, is the model's choice (log 5). -/
def Obligations.EveryOperationInOrderCompletes : Prop :=
  ∀ (i : Instr) (s : State), BufferOk s → inOrder i s = true → ∃ t, exec i s = .next t

/-- The model's two faults, a buffer read or write out of range, never occur where the invariants hold (20_memory.md R52,
R53). That the nine byte-class rows are instructions of their own is the model's choice (log 5). -/
def Obligations.NoStepFaults : Prop :=
  ∀ (s : State) (f : Fault), Invariants s → step s ≠ .fault f

/-- A buffer read at or above `rx_len` is an error of the model, not a value (R52). -/
def Obligations.ReadsAboveLengthGiveNoValue : Prop :=
  ∀ (s : State) (i : Nat), s.rxLen ≤ i → memRead i s = .error (.bufferReadUndefined i)

/-- The two sides share no state (00_scope.md R2, R9): the frame of every instruction by side. A transmit instruction leaves
every receive register, the events and the results; a receive instruction leaves every transmit register, the wire bytes and
the results; a query leaves everything but the results; none touches BUF_CAP or what is pending. That the nine byte-class
rows are instructions of their own is the model's choice (log 5). -/
def Obligations.SidesShareNoState : Prop :=
  ∀ (i : Instr) (s t : State), exec i s = .next t →
    t.inputs = s.inputs ∧ t.bufCap = s.bufCap ∧
    (isTransmit i = true → rxView t = rxView s ∧ t.evtOut = s.evtOut ∧ t.resOut = s.resOut) ∧
    (isReceive i = true → txView t = txView s ∧ t.wireOut = s.wireOut ∧ t.resOut = s.resOut) ∧
    (isTransmit i = false → isReceive i = false →
      rxView t = rxView s ∧ txView t = txView s ∧ t.wireOut = s.wireOut ∧ t.evtOut = s.evtOut)

/-- A transmit operation and a receive operation may be interleaved in any order (00_scope.md R9): the two complete in one
order if and only if they complete in the other, and in the same state. That the nine byte-class rows are instructions of
their own is the model's choice (log 5). -/
def Obligations.TransmitAndReceiveCommute : Prop :=
  ∀ (i j : Instr) (s t : State), isTransmit i = true → isReceive j = true →
    (execAll [i, j] s = .next t ↔ execAll [j, i] s = .next t)

/-- The output streams are written and never read (10_state.md R28): what was output before changes neither whether an
instruction completes nor what it does. That the nine byte-class rows are instructions of their own is the model's choice
(log 5). -/
def Obligations.OutputsAreNeverRead : Prop :=
  ∀ (i : Instr) (s t : State) (w : List Byte) (e : List Event) (r : List Result), exec i s = .next t →
    exec i { s with wireOut := w ++ s.wireOut, evtOut := e ++ s.evtOut, resOut := r ++ s.resOut } =
      .next { t with wireOut := w ++ t.wireOut, evtOut := e ++ t.evtOut, resOut := r ++ t.resOut }

/-- The complete list of mode changes (43_rx_decoder.md R173): nothing but RXRESET leads from an open frame to NotStarted,
and only a flag leads out of NotStarted. That the nine byte-class rows are instructions of their own is the model's choice
(log 5). -/
def Obligations.ModeChangesAreTheListed : Prop :=
  ∀ (i : Instr) (s t : State), exec i s = .next t →
    (t.rxMode = .notStarted → s.rxMode = .notStarted ∨ i = .rxreset) ∧
    (s.rxMode = .notStarted → t.rxMode = .notStarted ∨ (t.rxMode = .started ∧ (i = .rxbyte 0x7E#8 ∨ i = .rxFlag))) ∧
    (t.rxMode = .unescaping → s.rxMode = .unescaping ∨ (s.rxMode = .started ∧ (i = .rxbyte 0x7D#8 ∨ i = .rxEsc))) ∧
    (s.rxMode = .unescaping → t.rxMode = .unescaping → isReceive i = false)

/-- `rx_len` (10_state.md R22): an instruction leaves it, sets it to 0, or adds 1 below BUF_CAP; so it fits its register of
ceil(log2(BUF_CAP + 1)) bits wherever the invariants hold. That the nine byte-class rows are instructions of their own is the
model's choice (log 5). -/
def Obligations.RxLenCountsWithinRegister : Prop :=
  (∀ (i : Instr) (s t : State), exec i s = .next t →
    t.rxLen = s.rxLen ∨ t.rxLen = 0 ∨ (t.rxLen = s.rxLen + 1 ∧ capAllows s.bufCap s.rxLen = true)) ∧
  ∀ (s : State) (bits : Nat), Invariants s → rxLenBits s.bufCap = some bits → s.rxLen < 2 ^ bits

/-- Buffer writes (20_memory.md R53): an instruction leaves every cell, or writes the one cell at index `rx_len`, inside
BUF_CAP, and leaves every other, or leaves no readable cell and lists none (log 4, the model's reading); the canonical form
of the cells is kept. That the nine byte-class rows are instructions of their own is the model's choice (log 5). -/
def Obligations.BufferChangesOneCellAtLength : Prop :=
  ∀ (i : Instr) (s t : State), exec i s = .next t →
    (t.rxBuf = s.rxBuf ∨ (t.rxBuf = [] ∧ t.rxLen = 0) ∨
      (capAllows s.bufCap s.rxLen = true ∧ t.rxLen = s.rxLen + 1 ∧ (∃ v, memLookup t.rxBuf s.rxLen = some v) ∧
        ∀ k, k ≠ s.rxLen → memLookup t.rxBuf k = memLookup s.rxBuf k)) ∧
    (Memory.wf s.rxBuf → Memory.wf t.rxBuf)
end

