-- ==== Sys2Proof/Laws/Decode.lean ====
section
/-! SUPPORT. The fields of a tuple built from fields, and the tuple rebuilt from its fields. -/

namespace Sys2Proof

@[simp] theorem tupleOp_makeTuple (op : BitVec 4) (crc : Word16) (byte : Byte) :
    tupleOp (makeTuple op crc byte) = op := by
  apply BitVec.eq_of_getLsbD_eq; intro i hi
  simp only [tupleOp, makeTuple, BitVec.getLsbD_extractLsb', BitVec.getLsbD_append]
  simp [hi, show ¬ 24 + i < 8 by omega, show ¬ 24 + i - 8 < 16 by omega, show 24 + i - 8 - 16 = i by omega]

@[simp] theorem tupleCrc_makeTuple (op : BitVec 4) (crc : Word16) (byte : Byte) :
    tupleCrc (makeTuple op crc byte) = crc := by
  apply BitVec.eq_of_getLsbD_eq; intro i hi
  simp only [tupleCrc, makeTuple, BitVec.getLsbD_extractLsb', BitVec.getLsbD_append]
  simp [hi]

@[simp] theorem tupleByte_makeTuple (op : BitVec 4) (crc : Word16) (byte : Byte) :
    tupleByte (makeTuple op crc byte) = byte := by
  apply BitVec.eq_of_getLsbD_eq; intro i hi
  simp only [tupleByte, makeTuple, BitVec.getLsbD_extractLsb', BitVec.getLsbD_append]
  simp [hi]

/-- A tuple is its three fields (30_encoding.md R81). -/
theorem makeTuple_fields (w : Tuple) : makeTuple (tupleOp w) (tupleCrc w) (tupleByte w) = w := by
  apply BitVec.eq_of_getLsbD_eq; intro i hi
  simp only [tupleOp, tupleCrc, tupleByte, makeTuple, BitVec.getLsbD_extractLsb', BitVec.getLsbD_append]
  by_cases h1 : i < 8
  · simp [h1]
  · by_cases h2 : i - 8 < 16
    · simp [h1, h2, show 8 + (i - 8) = i by omega]
    · simp [h1, h2, show i - 8 - 16 < 4 by omega, show 24 + (i - 8 - 16) = i by omega]

/-- Tuples with the same fields are the same tuple. -/
theorem tuple_ext {v w : Tuple} (h1 : tupleOp v = tupleOp w) (h2 : tupleCrc v = tupleCrc w)
    (h3 : tupleByte v = tupleByte w) : v = w := by
  rw [← makeTuple_fields v, ← makeTuple_fields w, h1, h2, h3]

/-- Masking a tuple masks its fields. -/
theorem tupleOp_and (v w : Tuple) : tupleOp (v &&& w) = tupleOp v &&& tupleOp w := by
  apply BitVec.eq_of_getLsbD_eq; intro i hi
  simp [tupleOp, hi]

theorem tupleCrc_and (v w : Tuple) : tupleCrc (v &&& w) = tupleCrc v &&& tupleCrc w := by
  apply BitVec.eq_of_getLsbD_eq; intro i hi
  simp [tupleCrc, hi]

theorem tupleByte_and (v w : Tuple) : tupleByte (v &&& w) = tupleByte v &&& tupleByte w := by
  apply BitVec.eq_of_getLsbD_eq; intro i hi
  simp [tupleByte, hi]

/-- Masking with 0xF000000 keeps the op field and clears the others. -/
theorem and_opMask (w : Tuple) : w &&& 0xF000000#28 = makeTuple (tupleOp w) 0#16 0#8 := by
  apply tuple_ext
  · rw [tupleOp_and, tupleOp_makeTuple, show tupleOp 0xF000000#28 = BitVec.allOnes 4 by decide, BitVec.and_allOnes]
  · rw [tupleCrc_and, tupleCrc_makeTuple, show tupleCrc 0xF000000#28 = 0#16 by decide, BitVec.and_zero]
  · rw [tupleByte_and, tupleByte_makeTuple, show tupleByte 0xF000000#28 = 0#8 by decide, BitVec.and_zero]

/-- Masking with 0xF0000FF keeps op and byte and clears crc. -/
theorem and_opByteMask (w : Tuple) : w &&& 0xF0000FF#28 = makeTuple (tupleOp w) 0#16 (tupleByte w) := by
  apply tuple_ext
  · rw [tupleOp_and, tupleOp_makeTuple, show tupleOp 0xF0000FF#28 = BitVec.allOnes 4 by decide, BitVec.and_allOnes]
  · rw [tupleCrc_and, tupleCrc_makeTuple, show tupleCrc 0xF0000FF#28 = 0#16 by decide, BitVec.and_zero]
  · rw [tupleByte_and, tupleByte_makeTuple, show tupleByte 0xF0000FF#28 = BitVec.allOnes 8 by decide, BitVec.and_allOnes]

/-- Tuples agree under 0xF000000 exactly when their op fields agree. -/
theorem and_opMask_eq_iff (w : Tuple) (op : BitVec 4) :
    w &&& 0xF000000#28 = makeTuple op 0#16 0#8 ↔ tupleOp w = op := by
  rw [and_opMask]
  constructor
  · intro h; simpa using congrArg tupleOp h
  · rintro rfl; rfl

end Sys2Proof
end

