-- ==== Sys2Proof/Laws/Memory.lean ====
section
/-! SUPPORT. The laws of the buffer cells: read after write, every other index unchanged, the canonical form is kept, and what a
write at the end of a sequentially filled buffer does. -/

namespace Sys2Proof.Machine

theorem memLookup_memInsert_same (m : Memory) (k : Nat) (v : Byte) : memLookup (memInsert m k v) k = some v := by
  induction m with
  | nil => simp [memInsert, memLookup]
  | cons c m ih =>
    obtain ⟨i, b⟩ := c
    simp only [memInsert]
    split_ifs with h1 h2 <;> simp_all [memLookup]

theorem memLookup_memInsert_ne (m : Memory) {k j : Nat} (v : Byte) (h : j ≠ k) :
    memLookup (memInsert m k v) j = memLookup m j := by
  induction m with
  | nil => simp [memInsert, memLookup, h]
  | cons c m ih =>
    obtain ⟨i, b⟩ := c
    simp only [memInsert]
    split_ifs with h1 h2
    · simp [memLookup, h]
    · subst h2; simp [memLookup, h]
    · simp only [memLookup, ih]

/-- The indices after a write are the old ones and the written one. -/
theorem mem_fst_memInsert (m : Memory) (k j : Nat) (v : Byte) :
    j ∈ (memInsert m k v).map Prod.fst ↔ j = k ∨ j ∈ m.map Prod.fst := by
  induction m with
  | nil => simp [memInsert]
  | cons c m ih =>
    obtain ⟨i, b⟩ := c
    simp only [memInsert]
    split_ifs with h1 h2
    · simp
    · subst h2; simp
    · simp only [List.map_cons, List.mem_cons, ih]; tauto

/-- A write keeps the canonical form. -/
theorem memInsert_wf {m : Memory} (h : Memory.wf m) (k : Nat) (v : Byte) : Memory.wf (memInsert m k v) := by
  induction m with
  | nil => simp [Memory.wf, memInsert]
  | cons c m ih =>
    obtain ⟨i, b⟩ := c
    have hm : Memory.wf m := (List.pairwise_cons.1 h).2
    have hi : ∀ j ∈ m.map Prod.fst, i < j := (List.pairwise_cons.1 h).1
    simp only [memInsert]
    split_ifs with h1 h2
    · refine List.pairwise_cons.2 ⟨fun j hj => ?_, h⟩
      rcases List.mem_cons.1 hj with rfl | hj
      · exact h1
      · exact h1.trans (hi j hj)
    · subst h2; exact h
    · refine List.pairwise_cons.2 ⟨fun j hj => ?_, ih hm⟩
      rcases (mem_fst_memInsert m k j v).1 hj with rfl | hj
      · dsimp only; omega
      · exact hi j hj

/-- A buffer filled from index 0 is in canonical form. -/
theorem holds_wf {m : Memory} {len : Nat} (h : Memory.holds m len) : Memory.wf m := by
  unfold Memory.wf; rw [h]; exact List.pairwise_lt_range

theorem holds_length {m : Memory} {len : Nat} (h : Memory.holds m len) : (memBytes m).length = len := by
  have := congrArg List.length h
  simpa [memBytes] using this

theorem memInsert_past {m : Memory} {k : Nat} (v : Byte) (h : ∀ j ∈ m.map Prod.fst, j < k) :
    memInsert m k v = m ++ [(k, v)] := by
  induction m with
  | nil => rfl
  | cons c m ih =>
    obtain ⟨i, b⟩ := c
    have hi : i < k := h i (by simp)
    simp only [memInsert]
    rw [if_neg (by omega), if_neg (by omega), ih (fun j hj => h j (by simp_all))]
    rfl

/-- A write at the first index that holds no value puts the cell at the end (20_memory.md R53). -/
theorem memInsert_end {m : Memory} {len : Nat} (h : Memory.holds m len) (v : Byte) :
    memInsert m len v = m ++ [(len, v)] :=
  memInsert_past v (by rw [h]; simp)

theorem holds_memInsert {m : Memory} {len : Nat} (h : Memory.holds m len) (v : Byte) :
    Memory.holds (memInsert m len v) (len + 1) := by
  simp [Memory.holds, memInsert_end h, List.range_succ, show m.map Prod.fst = List.range len from h]

theorem memBytes_memInsert {m : Memory} {len : Nat} (h : Memory.holds m len) (v : Byte) :
    memBytes (memInsert m len v) = memBytes m ++ [v] := by
  simp [memBytes, memInsert_end h]

theorem memLookup_of_range' {m : Memory} {a : Nat} {n : Nat} (h : m.map Prod.fst = List.range' a n) (i : Nat) :
    memLookup m (a + i) = (memBytes m)[i]? := by
  induction m generalizing a n i with
  | nil => simp [memLookup, memBytes]
  | cons c m ih =>
    obtain ⟨j, b⟩ := c
    cases n with
    | zero => simp at h
    | succ n =>
      simp only [List.map_cons, List.range'_succ, List.cons.injEq] at h
      obtain ⟨rfl, h⟩ := h
      cases i with
      | zero => simp [memLookup, memBytes]
      | succ i =>
        have := ih h i
        simp only [memLookup, memBytes, List.map_cons, List.getElem?_cons_succ]
        rw [if_neg (by omega), show j + (i + 1) = j + 1 + i by omega, this]
        rfl

/-- What an index of a sequentially filled buffer holds. -/
theorem memLookup_of_holds {m : Memory} {len : Nat} (h : Memory.holds m len) (i : Nat) :
    memLookup m i = (memBytes m)[i]? := by
  have := memLookup_of_range' (m := m) (a := 0) (n := len) (by rw [← List.range_eq_range']; exact h) i
  simpa using this

/-- Equal contents of equal length are equal buffers. -/
theorem holds_ext {m n : Memory} {len : Nat} (hm : Memory.holds m len) (hn : Memory.holds n len)
    (h : memBytes m = memBytes n) : m = n := by
  have e : ∀ l : Memory, l = (l.map Prod.fst).zip (l.map Prod.snd) := fun l => by
    simp [List.zip_map']
  rw [e m, e n, show m.map Prod.fst = _ from hm, show n.map Prod.fst = _ from hn,
    show m.map Prod.snd = _ from h]
  rfl

end Sys2Proof.Machine
end

