-- ==== Sys2Proof/Laws/State.lean ====
section
/-! SUPPORT. One lemma per field per update of State, and per field of the cleared receive registers. -/

namespace Sys2Proof.Machine

section setRxMode
variable (m : Mode) (s : State)
@[simp] theorem setRxMode_bufCap : (setRxMode m s).bufCap = s.bufCap := rfl
@[simp] theorem setRxMode_rxMode : (setRxMode m s).rxMode = m := rfl
@[simp] theorem setRxMode_rxLen : (setRxMode m s).rxLen = s.rxLen := rfl
@[simp] theorem setRxMode_rxBuf : (setRxMode m s).rxBuf = s.rxBuf := rfl
@[simp] theorem setRxMode_rxCrc : (setRxMode m s).rxCrc = s.rxCrc := rfl
@[simp] theorem setRxMode_rxOvf : (setRxMode m s).rxOvf = s.rxOvf := rfl
@[simp] theorem setRxMode_txCrc : (setRxMode m s).txCrc = s.txCrc := rfl
@[simp] theorem setRxMode_txOpen : (setRxMode m s).txOpen = s.txOpen := rfl
@[simp] theorem setRxMode_wireOut : (setRxMode m s).wireOut = s.wireOut := rfl
@[simp] theorem setRxMode_evtOut : (setRxMode m s).evtOut = s.evtOut := rfl
@[simp] theorem setRxMode_resOut : (setRxMode m s).resOut = s.resOut := rfl
@[simp] theorem setRxMode_inputs : (setRxMode m s).inputs = s.inputs := rfl
end setRxMode

section setRxLen
variable (n : Nat) (s : State)
@[simp] theorem setRxLen_bufCap : (setRxLen n s).bufCap = s.bufCap := rfl
@[simp] theorem setRxLen_rxMode : (setRxLen n s).rxMode = s.rxMode := rfl
@[simp] theorem setRxLen_rxLen : (setRxLen n s).rxLen = n := rfl
@[simp] theorem setRxLen_rxBuf : (setRxLen n s).rxBuf = s.rxBuf := rfl
@[simp] theorem setRxLen_rxCrc : (setRxLen n s).rxCrc = s.rxCrc := rfl
@[simp] theorem setRxLen_rxOvf : (setRxLen n s).rxOvf = s.rxOvf := rfl
@[simp] theorem setRxLen_txCrc : (setRxLen n s).txCrc = s.txCrc := rfl
@[simp] theorem setRxLen_txOpen : (setRxLen n s).txOpen = s.txOpen := rfl
@[simp] theorem setRxLen_wireOut : (setRxLen n s).wireOut = s.wireOut := rfl
@[simp] theorem setRxLen_evtOut : (setRxLen n s).evtOut = s.evtOut := rfl
@[simp] theorem setRxLen_resOut : (setRxLen n s).resOut = s.resOut := rfl
@[simp] theorem setRxLen_inputs : (setRxLen n s).inputs = s.inputs := rfl
end setRxLen

section setRxBuf
variable (m : Memory) (s : State)
@[simp] theorem setRxBuf_bufCap : (setRxBuf m s).bufCap = s.bufCap := rfl
@[simp] theorem setRxBuf_rxMode : (setRxBuf m s).rxMode = s.rxMode := rfl
@[simp] theorem setRxBuf_rxLen : (setRxBuf m s).rxLen = s.rxLen := rfl
@[simp] theorem setRxBuf_rxBuf : (setRxBuf m s).rxBuf = m := rfl
@[simp] theorem setRxBuf_rxCrc : (setRxBuf m s).rxCrc = s.rxCrc := rfl
@[simp] theorem setRxBuf_rxOvf : (setRxBuf m s).rxOvf = s.rxOvf := rfl
@[simp] theorem setRxBuf_txCrc : (setRxBuf m s).txCrc = s.txCrc := rfl
@[simp] theorem setRxBuf_txOpen : (setRxBuf m s).txOpen = s.txOpen := rfl
@[simp] theorem setRxBuf_wireOut : (setRxBuf m s).wireOut = s.wireOut := rfl
@[simp] theorem setRxBuf_evtOut : (setRxBuf m s).evtOut = s.evtOut := rfl
@[simp] theorem setRxBuf_resOut : (setRxBuf m s).resOut = s.resOut := rfl
@[simp] theorem setRxBuf_inputs : (setRxBuf m s).inputs = s.inputs := rfl
end setRxBuf

section setRxCrc
variable (c : Word16) (s : State)
@[simp] theorem setRxCrc_bufCap : (setRxCrc c s).bufCap = s.bufCap := rfl
@[simp] theorem setRxCrc_rxMode : (setRxCrc c s).rxMode = s.rxMode := rfl
@[simp] theorem setRxCrc_rxLen : (setRxCrc c s).rxLen = s.rxLen := rfl
@[simp] theorem setRxCrc_rxBuf : (setRxCrc c s).rxBuf = s.rxBuf := rfl
@[simp] theorem setRxCrc_rxCrc : (setRxCrc c s).rxCrc = c := rfl
@[simp] theorem setRxCrc_rxOvf : (setRxCrc c s).rxOvf = s.rxOvf := rfl
@[simp] theorem setRxCrc_txCrc : (setRxCrc c s).txCrc = s.txCrc := rfl
@[simp] theorem setRxCrc_txOpen : (setRxCrc c s).txOpen = s.txOpen := rfl
@[simp] theorem setRxCrc_wireOut : (setRxCrc c s).wireOut = s.wireOut := rfl
@[simp] theorem setRxCrc_evtOut : (setRxCrc c s).evtOut = s.evtOut := rfl
@[simp] theorem setRxCrc_resOut : (setRxCrc c s).resOut = s.resOut := rfl
@[simp] theorem setRxCrc_inputs : (setRxCrc c s).inputs = s.inputs := rfl
end setRxCrc

section setRxOvf
variable (v : Bool) (s : State)
@[simp] theorem setRxOvf_bufCap : (setRxOvf v s).bufCap = s.bufCap := rfl
@[simp] theorem setRxOvf_rxMode : (setRxOvf v s).rxMode = s.rxMode := rfl
@[simp] theorem setRxOvf_rxLen : (setRxOvf v s).rxLen = s.rxLen := rfl
@[simp] theorem setRxOvf_rxBuf : (setRxOvf v s).rxBuf = s.rxBuf := rfl
@[simp] theorem setRxOvf_rxCrc : (setRxOvf v s).rxCrc = s.rxCrc := rfl
@[simp] theorem setRxOvf_rxOvf : (setRxOvf v s).rxOvf = v := rfl
@[simp] theorem setRxOvf_txCrc : (setRxOvf v s).txCrc = s.txCrc := rfl
@[simp] theorem setRxOvf_txOpen : (setRxOvf v s).txOpen = s.txOpen := rfl
@[simp] theorem setRxOvf_wireOut : (setRxOvf v s).wireOut = s.wireOut := rfl
@[simp] theorem setRxOvf_evtOut : (setRxOvf v s).evtOut = s.evtOut := rfl
@[simp] theorem setRxOvf_resOut : (setRxOvf v s).resOut = s.resOut := rfl
@[simp] theorem setRxOvf_inputs : (setRxOvf v s).inputs = s.inputs := rfl
end setRxOvf

section setTxCrc
variable (c : Word16) (s : State)
@[simp] theorem setTxCrc_bufCap : (setTxCrc c s).bufCap = s.bufCap := rfl
@[simp] theorem setTxCrc_rxMode : (setTxCrc c s).rxMode = s.rxMode := rfl
@[simp] theorem setTxCrc_rxLen : (setTxCrc c s).rxLen = s.rxLen := rfl
@[simp] theorem setTxCrc_rxBuf : (setTxCrc c s).rxBuf = s.rxBuf := rfl
@[simp] theorem setTxCrc_rxCrc : (setTxCrc c s).rxCrc = s.rxCrc := rfl
@[simp] theorem setTxCrc_rxOvf : (setTxCrc c s).rxOvf = s.rxOvf := rfl
@[simp] theorem setTxCrc_txCrc : (setTxCrc c s).txCrc = c := rfl
@[simp] theorem setTxCrc_txOpen : (setTxCrc c s).txOpen = s.txOpen := rfl
@[simp] theorem setTxCrc_wireOut : (setTxCrc c s).wireOut = s.wireOut := rfl
@[simp] theorem setTxCrc_evtOut : (setTxCrc c s).evtOut = s.evtOut := rfl
@[simp] theorem setTxCrc_resOut : (setTxCrc c s).resOut = s.resOut := rfl
@[simp] theorem setTxCrc_inputs : (setTxCrc c s).inputs = s.inputs := rfl
end setTxCrc

section setTxOpen
variable (v : Bool) (s : State)
@[simp] theorem setTxOpen_bufCap : (setTxOpen v s).bufCap = s.bufCap := rfl
@[simp] theorem setTxOpen_rxMode : (setTxOpen v s).rxMode = s.rxMode := rfl
@[simp] theorem setTxOpen_rxLen : (setTxOpen v s).rxLen = s.rxLen := rfl
@[simp] theorem setTxOpen_rxBuf : (setTxOpen v s).rxBuf = s.rxBuf := rfl
@[simp] theorem setTxOpen_rxCrc : (setTxOpen v s).rxCrc = s.rxCrc := rfl
@[simp] theorem setTxOpen_rxOvf : (setTxOpen v s).rxOvf = s.rxOvf := rfl
@[simp] theorem setTxOpen_txCrc : (setTxOpen v s).txCrc = s.txCrc := rfl
@[simp] theorem setTxOpen_txOpen : (setTxOpen v s).txOpen = v := rfl
@[simp] theorem setTxOpen_wireOut : (setTxOpen v s).wireOut = s.wireOut := rfl
@[simp] theorem setTxOpen_evtOut : (setTxOpen v s).evtOut = s.evtOut := rfl
@[simp] theorem setTxOpen_resOut : (setTxOpen v s).resOut = s.resOut := rfl
@[simp] theorem setTxOpen_inputs : (setTxOpen v s).inputs = s.inputs := rfl
end setTxOpen

section setInputs
variable (q : List Input) (s : State)
@[simp] theorem setInputs_bufCap : (setInputs q s).bufCap = s.bufCap := rfl
@[simp] theorem setInputs_rxMode : (setInputs q s).rxMode = s.rxMode := rfl
@[simp] theorem setInputs_rxLen : (setInputs q s).rxLen = s.rxLen := rfl
@[simp] theorem setInputs_rxBuf : (setInputs q s).rxBuf = s.rxBuf := rfl
@[simp] theorem setInputs_rxCrc : (setInputs q s).rxCrc = s.rxCrc := rfl
@[simp] theorem setInputs_rxOvf : (setInputs q s).rxOvf = s.rxOvf := rfl
@[simp] theorem setInputs_txCrc : (setInputs q s).txCrc = s.txCrc := rfl
@[simp] theorem setInputs_txOpen : (setInputs q s).txOpen = s.txOpen := rfl
@[simp] theorem setInputs_wireOut : (setInputs q s).wireOut = s.wireOut := rfl
@[simp] theorem setInputs_evtOut : (setInputs q s).evtOut = s.evtOut := rfl
@[simp] theorem setInputs_resOut : (setInputs q s).resOut = s.resOut := rfl
@[simp] theorem setInputs_inputs : (setInputs q s).inputs = q := rfl
end setInputs

section emitWire
variable (bs : List Byte) (s : State)
@[simp] theorem emitWire_bufCap : (emitWire bs s).bufCap = s.bufCap := rfl
@[simp] theorem emitWire_rxMode : (emitWire bs s).rxMode = s.rxMode := rfl
@[simp] theorem emitWire_rxLen : (emitWire bs s).rxLen = s.rxLen := rfl
@[simp] theorem emitWire_rxBuf : (emitWire bs s).rxBuf = s.rxBuf := rfl
@[simp] theorem emitWire_rxCrc : (emitWire bs s).rxCrc = s.rxCrc := rfl
@[simp] theorem emitWire_rxOvf : (emitWire bs s).rxOvf = s.rxOvf := rfl
@[simp] theorem emitWire_txCrc : (emitWire bs s).txCrc = s.txCrc := rfl
@[simp] theorem emitWire_txOpen : (emitWire bs s).txOpen = s.txOpen := rfl
@[simp] theorem emitWire_wireOut : (emitWire bs s).wireOut = s.wireOut ++ bs := rfl
@[simp] theorem emitWire_evtOut : (emitWire bs s).evtOut = s.evtOut := rfl
@[simp] theorem emitWire_resOut : (emitWire bs s).resOut = s.resOut := rfl
@[simp] theorem emitWire_inputs : (emitWire bs s).inputs = s.inputs := rfl
end emitWire

section emitEvt
variable (e : Event) (s : State)
@[simp] theorem emitEvt_bufCap : (emitEvt e s).bufCap = s.bufCap := rfl
@[simp] theorem emitEvt_rxMode : (emitEvt e s).rxMode = s.rxMode := rfl
@[simp] theorem emitEvt_rxLen : (emitEvt e s).rxLen = s.rxLen := rfl
@[simp] theorem emitEvt_rxBuf : (emitEvt e s).rxBuf = s.rxBuf := rfl
@[simp] theorem emitEvt_rxCrc : (emitEvt e s).rxCrc = s.rxCrc := rfl
@[simp] theorem emitEvt_rxOvf : (emitEvt e s).rxOvf = s.rxOvf := rfl
@[simp] theorem emitEvt_txCrc : (emitEvt e s).txCrc = s.txCrc := rfl
@[simp] theorem emitEvt_txOpen : (emitEvt e s).txOpen = s.txOpen := rfl
@[simp] theorem emitEvt_wireOut : (emitEvt e s).wireOut = s.wireOut := rfl
@[simp] theorem emitEvt_evtOut : (emitEvt e s).evtOut = s.evtOut ++ [e] := rfl
@[simp] theorem emitEvt_resOut : (emitEvt e s).resOut = s.resOut := rfl
@[simp] theorem emitEvt_inputs : (emitEvt e s).inputs = s.inputs := rfl
end emitEvt

section emitResult
variable (r : Result) (s : State)
@[simp] theorem emitResult_bufCap : (emitResult r s).bufCap = s.bufCap := rfl
@[simp] theorem emitResult_rxMode : (emitResult r s).rxMode = s.rxMode := rfl
@[simp] theorem emitResult_rxLen : (emitResult r s).rxLen = s.rxLen := rfl
@[simp] theorem emitResult_rxBuf : (emitResult r s).rxBuf = s.rxBuf := rfl
@[simp] theorem emitResult_rxCrc : (emitResult r s).rxCrc = s.rxCrc := rfl
@[simp] theorem emitResult_rxOvf : (emitResult r s).rxOvf = s.rxOvf := rfl
@[simp] theorem emitResult_txCrc : (emitResult r s).txCrc = s.txCrc := rfl
@[simp] theorem emitResult_txOpen : (emitResult r s).txOpen = s.txOpen := rfl
@[simp] theorem emitResult_wireOut : (emitResult r s).wireOut = s.wireOut := rfl
@[simp] theorem emitResult_evtOut : (emitResult r s).evtOut = s.evtOut := rfl
@[simp] theorem emitResult_resOut : (emitResult r s).resOut = s.resOut ++ [r] := rfl
@[simp] theorem emitResult_inputs : (emitResult r s).inputs = s.inputs := rfl
end emitResult

section clearRx
variable (m : Mode) (s : State)
@[simp] theorem clearRx_bufCap : (clearRx m s).bufCap = s.bufCap := rfl
@[simp] theorem clearRx_rxMode : (clearRx m s).rxMode = m := rfl
@[simp] theorem clearRx_rxLen : (clearRx m s).rxLen = 0 := rfl
@[simp] theorem clearRx_rxBuf : (clearRx m s).rxBuf = [] := rfl
@[simp] theorem clearRx_rxCrc : (clearRx m s).rxCrc = crcReset := rfl
@[simp] theorem clearRx_rxOvf : (clearRx m s).rxOvf = false := rfl
@[simp] theorem clearRx_txCrc : (clearRx m s).txCrc = s.txCrc := rfl
@[simp] theorem clearRx_txOpen : (clearRx m s).txOpen = s.txOpen := rfl
@[simp] theorem clearRx_wireOut : (clearRx m s).wireOut = s.wireOut := rfl
@[simp] theorem clearRx_evtOut : (clearRx m s).evtOut = s.evtOut := rfl
@[simp] theorem clearRx_resOut : (clearRx m s).resOut = s.resOut := rfl
@[simp] theorem clearRx_inputs : (clearRx m s).inputs = s.inputs := rfl
end clearRx

/-- Two states with the same fields are the same state. -/
theorem state_ext {s t : State} (h1 : s.bufCap = t.bufCap) (h2 : s.rxMode = t.rxMode) (h3 : s.rxLen = t.rxLen)
    (h4 : s.rxBuf = t.rxBuf) (h5 : s.rxCrc = t.rxCrc) (h6 : s.rxOvf = t.rxOvf) (h7 : s.txCrc = t.txCrc)
    (h8 : s.txOpen = t.txOpen) (h9 : s.wireOut = t.wireOut) (h10 : s.evtOut = t.evtOut) (h11 : s.resOut = t.resOut)
    (h12 : s.inputs = t.inputs) : s = t := by
  cases s; cases t; simp_all

@[simp] theorem emitWire_emitWire (a b : List Byte) (s : State) :
    emitWire b (emitWire a s) = emitWire (a ++ b) s := by
  simp [emitWire, List.append_assoc]

@[simp] theorem reopen_eq_clearRx (s : State) : reopen s = clearRx .started s := rfl

@[simp] theorem raiseGarbage_eq (c r : Word16) (s : State) : raiseGarbage c r s = emitEvt (.errGarbage c r) s := rfl

@[simp] theorem raiseOverflow_eq (s : State) : raiseOverflow s = emitEvt .errOverflow s := rfl

end Sys2Proof.Machine
end

