-- ==== Sys2Proof/Laws/Ops.lean ====
section
/-! SUPPORT. What each shared operation of the receive decoder does, said once: the buffer reads in a filled buffer, and the
results of `appendByte`, `finalize` and `frameBoundary`. -/

namespace Sys2Proof.Machine

open Sys2Proof.Safety

@[simp] theorem settle_ok (s : State) : settle (.ok s) = .next s := rfl
@[simp] theorem settle_error (f : Fault) : settle (.error f) = .fault f := rfl

theorem settle_eq_next {r : Except Fault State} {t : State} : settle r = .next t ↔ r = .ok t := by
  cases r <;> simp [settle]

@[simp] theorem settle_ne_refused (r : Except Fault State) (x : Refusal) : settle r ≠ .refused x := by
  cases r <;> simp [settle]

/-! ## Buffer reads -/

theorem content_length {s : State} (h : BufferOk s) : (content s).length = s.rxLen := holds_length h.holds

/-- In a filled buffer every read below `rx_len` gives the content byte. -/
theorem memRead_eq {s : State} (h : BufferOk s) {i : Nat} (hi : i < s.rxLen) :
    memRead i s = .ok ((content s)[i]'(by rw [content_length h]; exact hi)) := by
  have hl : i < (memBytes s.rxBuf).length := by rw [holds_length h.holds]; exact hi
  simp [memRead, hi, memLookup_of_holds h.holds, content, List.getElem?_eq_getElem hl]

theorem memReadRange_eq {s : State} (h : BufferOk s) (n : Nat) : ∀ i, i + n ≤ s.rxLen →
    memReadRange s i n = .ok (((content s).drop i).take n) := by
  induction n with
  | zero => intro i _; simp [memReadRange]
  | succ n ih =>
    intro i hi
    have hl : i < (content s).length := by rw [content_length h]; omega
    rw [memReadRange, memRead_eq h (show i < s.rxLen by omega), ih (i + 1) (by omega),
      List.drop_eq_getElem_cons hl, List.take_succ_cons]
    rfl

/-- A read outside the content is an error of the model, never a value (20_memory.md R52). -/
theorem memRead_past (s : State) {i : Nat} (h : s.rxLen ≤ i) : memRead i s = .error (.bufferReadUndefined i) := by
  simp [memRead, Nat.not_lt.2 h]

/-! ## Append -/

/-- With a full buffer the byte is dropped and the overflow flag set, whatever the buffer holds. -/
theorem appendByte_full {s : State} (h : bufferFull s = true) (v : Byte) :
    appendByte v s = .ok (setRxOvf true s) := by
  simp [appendByte, h]

theorem capAllows_of_not_full {cap : BufCap} {n : Nat} (h1 : capFits cap n = true) (h2 : capFull cap n = false) :
    capAllows cap n = true := by
  cases cap <;> simp_all [capAllows, capFits, capFull] ; omega

theorem capFits_succ {cap : BufCap} {n : Nat} (h1 : capFits cap n = true) (h2 : capFull cap n = false) :
    capFits cap (n + 1) = true := by
  cases cap <;> simp_all [capFits, capFull] ; omega

/-- The accumulator an append leaves, in a filled buffer. -/
def crcAfterAppend (s : State) : Word16 :=
  if 2 ≤ s.rxLen then crc16Step s.rxCrc ((content s).getD (s.rxLen - 2) 0#8) else s.rxCrc

theorem laggedCrc_eq {s : State} (h : BufferOk s) : laggedCrc s = .ok (crcAfterAppend s) := by
  unfold laggedCrc crcAfterAppend
  split_ifs with h2
  · have hl : s.rxLen - 2 < (content s).length := by rw [content_length h]; omega
    rw [memRead_eq h (by omega)]
    simp [Except.map, List.getD_eq_getElem?_getD, hl]
  · rfl

/-- With room in a filled buffer the byte is stored at index `rx_len`. -/
theorem appendByte_room {s : State} (h : BufferOk s) (hf : bufferFull s = false) (v : Byte) :
    appendByte v s =
      .ok (setRxLen (s.rxLen + 1) (setRxBuf (memInsert s.rxBuf s.rxLen v) (setRxCrc (crcAfterAppend s) s))) := by
  have hw : capAllows s.bufCap s.rxLen = true := capAllows_of_not_full h.fits hf
  simp [appendByte, hf, laggedCrc_eq h, memWrite, hw, Except.map]

/-- What an append can do. -/
theorem appendByte_cases {s t : State} {v : Byte} (h : appendByte v s = .ok t) :
    (bufferFull s = true ∧ t = setRxOvf true s) ∨
      (bufferFull s = false ∧ capAllows s.bufCap s.rxLen = true ∧ ∃ c, laggedCrc s = .ok c ∧
        t = setRxLen (s.rxLen + 1) (setRxBuf (memInsert s.rxBuf s.rxLen v) (setRxCrc c s))) := by
  unfold appendByte at h
  split_ifs at h with hf
  · exact .inl ⟨hf, by injection h with h; exact h.symm⟩
  · refine .inr ⟨by simpa using hf, ?_⟩
    cases hc : laggedCrc s with
    | error f => simp [hc] at h
    | ok c =>
      by_cases hw : capAllows s.bufCap s.rxLen = true
      · simp [hc, memWrite, hw, Except.map] at h; exact ⟨hw, c, rfl, h.symm⟩
      · simp [hc, memWrite, hw, Except.map] at h

/-- An append keeps the buffer filled. -/
theorem appendByte_bufferOk {s t : State} {v : Byte} (hb : BufferOk s) (h : appendByte v s = .ok t) : BufferOk t := by
  obtain ⟨_, rfl⟩ | ⟨hf, _, c, _, rfl⟩ := appendByte_cases h
  · exact ⟨hb.holds, hb.fits⟩
  · exact ⟨holds_memInsert hb.holds v, capFits_succ hb.fits hf⟩

/-! ## Finalize -/

/-- What a frame boundary reports of a filled buffer, in terms of its content and the accumulator. -/
def verdict (s : State) : Option Event :=
  if s.rxOvf then some .errOverflow
  else if s.rxLen < 2 then none
  else if finishCrc s.rxCrc = receivedFcs (content s) then some (.frame ((content s).take (s.rxLen - 2)))
  else some (.errGarbage (finishCrc s.rxCrc) (receivedFcs (content s)))

/-- Emit what is reported, if anything. -/
def report (e : Option Event) (s : State) : State :=
  match e with
  | none => s
  | some x => emitEvt x s

/-- Finalization of a filled buffer never fails and changes nothing but `evt_out`. -/
theorem finalize_eq {s : State} (h : BufferOk s) : finalize s = .ok (report (verdict s) s) := by
  unfold finalize verdict
  split_ifs with h1 h2 h3
  · rfl
  · rfl
  all_goals
    have hl : s.rxLen - 1 < (content s).length := by rw [content_length h]; omega
    have hk : s.rxLen - 2 < (content s).length := by rw [content_length h]; omega
    have hr : receivedFcs (content s) = joinFcs (content s)[s.rxLen - 1] (content s)[s.rxLen - 2] := by
      rw [receivedFcs, content_length h, List.getD_eq_getElem _ _ hl, List.getD_eq_getElem _ _ hk]
    rw [hr] at h3
    simp only [judge, memRead_eq h (show s.rxLen - 1 < s.rxLen by omega),
      memRead_eq h (show s.rxLen - 2 < s.rxLen by omega)]
  · rw [if_pos h3, memReadRange_eq h _ 0 (by omega)]
    rfl
  · rw [if_neg h3, hr]
    rfl

/-- A frame boundary of a filled buffer reports and re-opens. -/
theorem frameBoundary_eq {s : State} (h : BufferOk s) :
    frameBoundary s = .ok (clearRx .started (report (verdict s) s)) := by
  simp [frameBoundary, finalize_eq h, Except.map]

/-- What finalization can do in any state: emit at most one event and change nothing else. -/
theorem finalize_cases {s t : State} (h : finalize s = .ok t) : t = s ∨ ∃ e, t = emitEvt e s := by
  unfold finalize at h
  split_ifs at h with h1 h2
  · exact .inr ⟨.errOverflow, by injection h with h; exact h.symm⟩
  · exact .inl (by injection h with h; exact h.symm)
  · refine .inr ?_
    unfold judge at h
    split at h
    · split_ifs at h
      · revert h
        cases memReadRange s 0 (s.rxLen - 2) with
        | error f => simp [Except.map]
        | ok p => intro h; exact ⟨.frame p, by simp [Except.map] at h; exact h.symm⟩
      · exact ⟨_, by injection h with h; exact h.symm⟩
    · cases h
    · cases h

/-- What a frame boundary can do in any state. -/
theorem frameBoundary_cases {s t : State} (h : frameBoundary s = .ok t) :
    t = clearRx .started s ∨ ∃ e, t = clearRx .started (emitEvt e s) := by
  unfold frameBoundary at h
  revert h
  cases hf : finalize s with
  | error f => simp [Except.map]
  | ok u =>
    intro h
    have ht : clearRx .started u = t := by simpa [Except.map] using h
    obtain rfl | ⟨e, rfl⟩ := finalize_cases hf
    · exact .inl ht.symm
    · exact .inr ⟨e, ht.symm⟩

end Sys2Proof.Machine
end

