-- ==== Sys2Proof/Laws/PerInstr.lean ====
section
/-! SUPPORT. Facts that hold of every instruction as syntax, one lemma per constructor. -/

namespace Sys2Proof.Laws.RowMatches

/-- Some row of the opcode table carries the instruction's mnemonic and matches its encoded word (30_encoding.md R87). -/
abbrev Statement (i : Instr) : Prop := ∃ r ∈ opcodeTable, r.mnemonic = mnemonicOf i ∧ rowMatches (encode i) r = true

/-- The command rows: mask 0xF000000, so only the op field decides. -/
theorem of_command {i : Instr} (r : Row) (hr : r ∈ opcodeTable) (hm : r.mnemonic = mnemonicOf i) (hf : r.format = .cw)
    (hk : r.mask = 0xF000000#28) (op : BitVec 4) (c : Word16) (b : Byte) (he : encode i = .command (makeTuple op c b))
    (hb : r.matchBits = makeTuple op 0#16 0#8) : Statement i := by
  refine ⟨r, hr, hm, ?_⟩
  simp only [rowMatches, he, hf, hk, hb, wordFormat, wordBits, Bool.and_eq_true, beq_iff_eq, true_and]
  exact (and_opMask_eq_iff _ _).2 (tupleOp_makeTuple op c b)

/-- The default rows: mask 0. -/
theorem of_default {i : Instr} (r : Row) (hr : r ∈ opcodeTable) (hm : r.mnemonic = mnemonicOf i)
    (hf : r.format = wordFormat (encode i)) (hk : r.mask = 0#28) (hb : r.matchBits = 0#28) : Statement i := by
  refine ⟨r, hr, hm, ?_⟩
  simp [rowMatches, hf, hk, hb]

theorem crcstep (crc : Word16) (byte : Byte) : Statement (.crcstep crc byte) :=
  of_command ⟨"CRCSTEP", .cw, 0x1000000#28, 0xF000000#28⟩ (by decide) rfl rfl rfl 1#4 crc byte rfl (by decide)

theorem needesc (byte : Byte) : Statement (.needesc byte) :=
  of_command ⟨"NEEDESC", .cw, 0x2000000#28, 0xF000000#28⟩ (by decide) rfl rfl rfl 2#4 0#16 byte rfl (by decide)

theorem txopen : Statement .txopen :=
  of_command ⟨"TXOPEN", .cw, 0x3000000#28, 0xF000000#28⟩ (by decide) rfl rfl rfl 3#4 0#16 0#8 rfl (by decide)

theorem txbyte (byte : Byte) : Statement (.txbyte byte) :=
  of_command ⟨"TXBYTE", .cw, 0x4000000#28, 0xF000000#28⟩ (by decide) rfl rfl rfl 4#4 0#16 byte rfl (by decide)

theorem txclose : Statement .txclose :=
  of_command ⟨"TXCLOSE", .cw, 0x5000000#28, 0xF000000#28⟩ (by decide) rfl rfl rfl 5#4 0#16 0#8 rfl (by decide)

theorem rxbyte (byte : Byte) : Statement (.rxbyte byte) :=
  of_command ⟨"RXBYTE", .cw, 0x6000000#28, 0xF000000#28⟩ (by decide) rfl rfl rfl 6#4 0#16 byte rfl (by decide)

theorem rxreset : Statement .rxreset :=
  of_command ⟨"RXRESET", .cw, 0x7000000#28, 0xF000000#28⟩ (by decide) rfl rfl rfl 7#4 0#16 0#8 rfl (by decide)

theorem rxFlag : Statement .rxFlag := by decide

theorem rxEsc : Statement .rxEsc := by decide

theorem rxData (byte : Byte) : Statement (.rxData byte) :=
  of_default ⟨"RX.DATA", .rxw, 0x00#28, 0x00#28⟩ (by decide) rfl rfl rfl rfl

theorem txStuff7E : Statement .txStuff7E := by decide

theorem txStuff7D : Statement .txStuff7D := by decide

theorem txStuff11 : Statement .txStuff11 := by decide

theorem txStuff13 : Statement .txStuff13 := by decide

theorem txStuffF8 : Statement .txStuffF8 := by decide

theorem txLit (byte : Byte) : Statement (.txLit byte) :=
  of_default ⟨"TX.LIT", .txw, 0x00#28, 0x00#28⟩ (by decide) rfl rfl rfl rfl

end Sys2Proof.Laws.RowMatches
end

