-- ==== Sys2Proof/Laws/Step.lean ====
section
/-! SUPPORT. What one instruction and one step can do, said once (inversion lemmas), and the laws of operation sequences. -/

namespace Sys2Proof.Machine

open Sys2Proof.Safety

/-- Everything a wire byte of the receiver can do in any state. -/
inductive RxEffect (s : State) : State → Prop where
  /-- R152: discarded. -/
  | discard (h : s.rxMode = .notStarted) : RxEffect s s
  /-- R151: the first flag. -/
  | opened (h : s.rxMode = .notStarted) : RxEffect s (clearRx .started s)
  /-- R153: the escape prefix. -/
  | escape (h : s.rxMode = .started) : RxEffect s (setRxMode .unescaping s)
  /-- R155: a content byte as it is. -/
  | data (v : Byte) (t : State) (h : s.rxMode = .started) (ha : appendByte v s = .ok t) : RxEffect s t
  /-- R157: a content byte transformed. -/
  | transformed (v : Byte) (t : State) (h : s.rxMode = .unescaping) (ha : appendByte v s = .ok t) :
      RxEffect s (setRxMode .started t)
  /-- R154, R156: a frame boundary. -/
  | boundary (t : State) (h : s.rxMode ≠ .notStarted) (hb : frameBoundary s = .ok t) : RxEffect s t

theorem wireFlag_effect {s t : State} (h : wireFlag s = .ok t) : RxEffect s t := by
  unfold wireFlag at h
  split at h
  · next hm => injection h with h; exact h ▸ .opened hm
  · next hm => exact .boundary t (by simp [hm]) h
  · next hm => exact .boundary t (by simp [hm]) h

theorem storeUnescaped_effect {s t : State} {b : Byte} (hm : s.rxMode = .unescaping) (h : storeUnescaped b s = .ok t) :
    RxEffect s t := by
  unfold storeUnescaped at h
  revert h
  cases ha : appendByte (escapeTransform b) s with
  | error f => simp [Except.map]
  | ok u =>
    intro h
    have : setRxMode .started u = t := by simpa [Except.map] using h
    exact this ▸ .transformed _ u hm ha

theorem wireEsc_effect {s t : State} (h : wireEsc s = .ok t) : RxEffect s t := by
  unfold wireEsc at h
  split at h
  · next hm => injection h with h; exact h ▸ .discard hm
  · next hm => injection h with h; exact h ▸ .escape hm
  · next hm => exact storeUnescaped_effect hm h

theorem wireData_effect {s t : State} {b : Byte} (h : wireData b s = .ok t) : RxEffect s t := by
  unfold wireData at h
  split at h
  · next hm => injection h with h; exact h ▸ .discard hm
  · next hm => exact .data b t hm h
  · next hm => exact storeUnescaped_effect hm h

theorem execRxbyte_effect {s t : State} {b : Byte} (h : execRxbyte b s = .next t) : RxEffect s t := by
  unfold execRxbyte at h
  rw [settle_eq_next] at h
  split at h
  · exact wireFlag_effect h
  · exact wireEsc_effect h
  · exact wireData_effect h

/-- Everything one instruction that answers a next state can do to the state. -/
inductive Effect (s : State) : State → Prop where
  /-- a pure query. -/
  | query (r : Result) : Effect s (emitResult r s)
  /-- a content byte's wire form. -/
  | wire (bs : List Byte) : Effect s (emitWire bs s)
  /-- TXOPEN. -/
  | txOpened (h : s.txOpen = false) : Effect s (setTxOpen true (setTxCrc crcReset (emitWire [flagByte] s)))
  /-- TXBYTE. -/
  | txByte (b : Byte) (h : s.txOpen = true) : Effect s (emitWire (stuff b) (setTxCrc (crc16Step s.txCrc b) s))
  /-- TXCLOSE. -/
  | txClosed (bs : List Byte) (h : s.txOpen = true) : Effect s (setTxOpen false (emitWire bs s))
  /-- RXRESET. -/
  | rxReset : Effect s (clearRx .notStarted s)
  /-- a wire byte of the receiver. -/
  | rx (t : State) (h : RxEffect s t) : Effect s t

theorem exec_effect {i : Instr} {s t : State} (h : exec i s = .next t) : Effect s t := by
  cases i with
  | crcstep c b => simp only [exec, execCrcstep, Host.Outcome.next.injEq] at h; exact h ▸ .query _
  | needesc b => simp only [exec, execNeedesc, Host.Outcome.next.injEq] at h; exact h ▸ .query _
  | txopen =>
    simp only [exec, execTxopen] at h
    split at h
    · cases h
    · next ho => injection h with h; exact h ▸ .txOpened (by simpa using ho)
  | txbyte b =>
    simp only [exec, execTxbyte] at h
    split at h
    · next ho => injection h with h; exact h ▸ .txByte b ho
    · cases h
  | txclose =>
    simp only [exec, execTxclose, emitWire_emitWire] at h
    split at h
    · next ho => injection h with h; exact h ▸ .txClosed _ ho
    · cases h
  | rxbyte b => exact .rx t (execRxbyte_effect h)
  | rxreset => simp only [exec, execRxreset, Host.Outcome.next.injEq] at h; exact h ▸ .rxReset
  | rxFlag => exact .rx t (wireFlag_effect (settle_eq_next.1 h))
  | rxEsc => exact .rx t (wireEsc_effect (settle_eq_next.1 h))
  | rxData b => exact .rx t (wireData_effect (settle_eq_next.1 h))
  | txStuff7E | txStuff7D | txStuff11 | txStuff13 | txStuffF8 =>
    injection h with h; exact h ▸ .wire _
  | txLit b => injection h with h; exact h ▸ .wire _

/-- What one step can do. -/
theorem step_cases {s t : State} (h : step s = .next t) :
    capAdmissible s.bufCap = true ∧
      ((s.inputs = [] ∧ t = s) ∨
        (∃ rest, s.inputs = .hardwareReset :: rest ∧ t = hardwareReset (setInputs rest s)) ∨
        ∃ w rest i, s.inputs = .operation w :: rest ∧ decode w = .ok i ∧ exec i (setInputs rest s) = .next t) := by
  unfold step takeNext at h
  split at h
  · next hc =>
    refine ⟨hc, ?_⟩
    split at h
    · next hi => injection h with h; exact .inl ⟨hi, h.symm⟩
    · next x rest hi =>
      cases x with
      | hardwareReset => injection h with h; exact .inr (.inl ⟨rest, hi, h.symm⟩)
      | operation w =>
        simp only [runInput, runWord] at h
        cases hd : decode w with
        | error e => simp [hd] at h
        | ok i => exact .inr (.inr ⟨w, rest, i, hi, hd, by simpa [hd] using h⟩)
  · cases h

@[simp] theorem execAll_nil (s : State) : execAll [] s = .next s := rfl

theorem execAll_cons_next {i : Instr} {s t : State} (h : exec i s = .next t) (is : List Instr) :
    execAll (i :: is) s = execAll is t := by
  simp [execAll, h]

theorem execAll_append_next {is js : List Instr} {s t : State} (h : execAll is s = .next t) :
    execAll (is ++ js) s = execAll js t := by
  induction is generalizing s with
  | nil => simp only [execAll, Host.Outcome.next.injEq] at h; subst h; rfl
  | cons i is ih =>
    simp only [execAll, List.cons_append] at h ⊢
    cases hi : exec i s with
    | next u => rw [hi] at h; exact ih h
    | fault f => simp [hi] at h
    | refused r => simp [hi] at h

theorem crcFrom_append (c : Word16) (a b : List Byte) : crcFrom c (a ++ b) = crcFrom (crcFrom c a) b :=
  List.foldl_append

end Sys2Proof.Machine
end

