-- ==== Sys2Proof/Tests/Slice0.lean ====
section
/-! SUPPORT. Tests. The expected values are those of spec/95_test_vectors.md (its vector is named at each test) or words
written out bit by bit from spec/30_encoding.md R81, R82, R87; then one witness for the hypotheses of each statement. -/

namespace Sys2Proof.Tests

open Sys2Proof.Machine Sys2Proof.Safety

/-- The next state, if there is one. -/
def nextOf : Host.Outcome State Fault Refusal → Option State
  | .next s => some s
  | .fault _ => none
  | .refused _ => none

/-- The refusal, if there is one. -/
def refusalIn : Host.Outcome State Fault Refusal → Option Refusal
  | .next _ => none
  | .fault _ => none
  | .refused r => some r

/-- Buffer cells holding these bytes from index 0. -/
def cells (bs : List Byte) : Memory := (List.range bs.length).zip bs

/-- A receiver: capacity, mode, content, `rx_crc`, `rx_ovf`; everything else as after reset. -/
def rx (cap : BufCap) (m : Mode) (bs : List Byte) (crc : Word16) (ovf : Bool) : State :=
  { State.resetWith cap with rxMode := m, rxLen := bs.length, rxBuf := cells bs, rxCrc := crc, rxOvf := ovf }

/-- A transmitter with a frame open. -/
def txAt (crc : Word16) : State := { State.reset with txOpen := true, txCrc := crc }

/-- Some other state with these operations pending. -/
def pending (ws : List PortWord) (s : State) : State := { s with inputs := ws.map .operation }

/-! ## WellFormed: each check, with a term it refuses -/

theorem test_wf_rxdata_flag_refused : (Instr.rxData 0x7E#8).wf = false := by decide
theorem test_wf_rxdata_esc_refused : (Instr.rxData 0x7D#8).wf = false := by decide
theorem test_wf_rxdata_neighbours : (Instr.rxData 0x7F#8).wf = true ∧ (Instr.rxData 0x7C#8).wf = true := by decide
theorem test_wf_txlit_members_refused :
    ∀ b ∈ [0x7E#8, 0x7D#8, 0x11#8, 0x13#8, 0xF8#8], (Instr.txLit b).wf = false := by decide
theorem test_wf_txlit_neighbours :
    ∀ b ∈ [0x7F#8, 0x7C#8, 0x10#8, 0x12#8, 0x14#8, 0xF7#8, 0xF9#8], (Instr.txLit b).wf = true := by decide

/-! ## Decoding: words written out from R81 and R82, op in bits 27..24, crc in 23..8, byte in 7..0 -/

theorem test_decode_crcstep :
    decode (.command 0b0001_0001001000110100_01010110#28) = .ok (.crcstep 0x1234#16 0x56#8) := by decide
theorem test_decode_needesc : decode (.command 0b0010_1010101111001101_01011110#28) = .ok (.needesc 0x5E#8) := by decide
theorem test_decode_txopen : decode (.command 0b0011_0000000000000000_00000000#28) = .ok .txopen := by decide
theorem test_decode_txbyte : decode (.command 0b0100_0000000000000000_01111110#28) = .ok (.txbyte 0x7E#8) := by decide
theorem test_decode_txclose : decode (.command 0b0101_0000000000000000_00000001#28) = .ok .txclose := by decide
theorem test_decode_rxbyte : decode (.command 0b0110_1000000000000000_01000001#28) = .ok (.rxbyte 0x41#8) := by decide
theorem test_decode_rxreset : decode (.command 0b0111_0000000000000001_00000000#28) = .ok .rxreset := by decide
theorem test_decode_reserved_low : decode (.command 0x0FFFFFF#28) = .error (.reservedCode 0x0#4) := by decide
theorem test_decode_reserved_high :
    decode (.command 0x8000000#28) = .error (.reservedCode 0x8#4) ∧
      decode (.command 0xF000041#28) = .error (.reservedCode 0xF#4) := by decide
theorem test_decode_wire :
    decode (.wire 0b01111110#8) = .ok .rxFlag ∧ decode (.wire 0b01111101#8) = .ok .rxEsc ∧
      decode (.wire 0b00010001#8) = .ok (.rxData 0x11#8) := by decide
theorem test_decode_content :
    decode (.content 0b01111110#8) = .ok .txStuff7E ∧ decode (.content 0b01111101#8) = .ok .txStuff7D ∧
      decode (.content 0b00010001#8) = .ok .txStuff11 ∧ decode (.content 0b00010011#8) = .ok .txStuff13 ∧
      decode (.content 0b11111000#8) = .ok .txStuffF8 ∧ decode (.content 0b00000000#8) = .ok (.txLit 0#8) := by decide
theorem test_table_words :
    decodeTableWord 28 0x1123456 = some (.crcstep 0x1234#16 0x56#8) ∧ decodeTableWord 32 0x7000000 = some .rxreset ∧
      decodeTableWord 28 0x8000000 = none ∧ decodeTableWord 8 0x7E = some .rxFlag ∧
      decodeTableWord 8 0xF8 = some .txStuffF8 := by decide
theorem test_lookup_prefers_longest_mask :
    (lookupRow (.wire 0x7E#8)).map Row.mnemonic = some "RX.FLAG" ∧
      (lookupRow (.content 0xF8#8)).map Row.mnemonic = some "TX.STUFF.F8" ∧ lookupRow (.command 0#28) = none := by decide

/-! ## The two queries -/

/-- V-CRC-6 and V-CRC-6b. -/
theorem test_crcstep :
    (nextOf (exec (.crcstep 0x1234#16 0x56#8) State.reset)).map State.resOut = some [.crc 0x4006#16] ∧
      (nextOf (exec (.crcstep 0x0080#16 0x00#8) State.reset)).map State.resOut = some [.crc 0x8408#16] := by decide
/-- V-ESC-1, V-ESC-2. -/
theorem test_needesc :
    (nextOf (exec (.needesc 0xF8#8) State.reset)).map State.resOut = some [.needEsc true] ∧
      (nextOf (exec (.needesc 0x5E#8) State.reset)).map State.resOut = some [.needEsc false] := by decide
/-- V-CRC-8 and V-CRC-9. -/
theorem test_check_value :
    fcs16 [0x31#8, 0x32#8, 0x33#8, 0x34#8, 0x35#8, 0x36#8, 0x37#8, 0x38#8, 0x39#8] = 0x906E#16 ∧
      crc16 [0x31#8, 0x32#8, 0x33#8, 0xB4#8, 0x9C#8] = crcCheck := by decide +kernel
/-- The two checksums of V-CRC-11. -/
theorem test_table_checksums :
    crcTable.foldl (· ^^^ ·) 0#16 = 0#16 ∧ (crcTable.map BitVec.toNat).sum = 8388480 := by decide +kernel

/-! ## The transmitter -/

/-- V-TX-19, step 1. -/
theorem test_txopen :
    nextOf (exec .txopen { State.reset with txCrc := 0#16 }) =
      some { State.reset with wireOut := [0x7E#8], txCrc := 0xFFFF#16, txOpen := true } := by decide
/-- V-TX-20. -/
theorem test_txopen_refused : refusalIn (exec .txopen (txAt 0xFFFF#16)) = some .txOpenWhileFrameOpen := by decide
/-- V-TX-19, step 2. -/
theorem test_txbyte_reserved :
    nextOf (exec (.txbyte 0x7E#8) (txAt 0xFFFF#16)) =
      some { txAt 0x957E#16 with wireOut := [0x7D#8, 0x5E#8] } := by decide
/-- V-TX-19, step 3, and V-TX-20. -/
theorem test_txbyte_plain_and_refused :
    nextOf (exec (.txbyte 0x41#8) (txAt 0x957E#16)) = some { txAt 0xC9E1#16 with wireOut := [0x41#8] } ∧
      refusalIn (exec (.txbyte 0x41#8) State.reset) = some .txByteWithoutFrame := by decide
/-- V-TX-19, step 4. -/
theorem test_txclose :
    nextOf (exec .txclose (txAt 0xC9E1#16)) =
      some { State.reset with txCrc := 0xC9E1#16, wireOut := [0x1E#8, 0x36#8, 0x7E#8] } := by decide
/-- V-TX-16 (both FCS bytes stuffed, the low one first; FCS F813 is accumulator 07EC) and V-TX-20. -/
theorem test_txclose_stuffed_and_refused :
    (nextOf (exec .txclose (txAt 0x07EC#16))).map State.wireOut = some [0x7D#8, 0x33#8, 0x7D#8, 0xD8#8, 0x7E#8] ∧
      refusalIn (exec .txclose State.reset) = some .txCloseWithoutFrame := by decide
/-- V-ESC-1, the stuffed forms. -/
theorem test_stuff_rows :
    [Instr.txStuff7E, .txStuff7D, .txStuff11, .txStuff13, .txStuffF8, .txLit 0x5E#8].map
        (fun i => (nextOf (exec i State.reset)).map State.wireOut) =
      [some [0x7D#8, 0x5E#8], some [0x7D#8, 0x5D#8], some [0x7D#8, 0x31#8], some [0x7D#8, 0x33#8],
       some [0x7D#8, 0xD8#8], some [0x5E#8]] := by decide
/-- V-TX-15. -/
theorem test_encode_closed_form :
    encodeFrame [0x1B#8, 0x00#8] = [0x7E#8, 0x1B#8, 0x00#8, 0x7D#8, 0x5E#8, 0x7D#8, 0x5E#8, 0x7E#8] := by decide

/-! ## The receiver -/

/-- V-RX-1, third append: the accumulator takes in the first byte. -/
theorem test_rxbyte_append :
    nextOf (exec (.rxbyte 0x33#8) (rx .unbounded .started [0x31#8, 0x32#8] 0xFFFF#16 false)) =
      some (rx .unbounded .started [0x31#8, 0x32#8, 0x33#8] 0x2F8D#16 false) := by decide
/-- V-RX-1, last row. -/
theorem test_rxbyte_frame :
    nextOf (exec (.rxbyte 0x7E#8) (rx .unbounded .started [0x31#8, 0x32#8, 0x33#8, 0xB4#8, 0x9C#8] 0x634B#16 false)) =
      some { rx .unbounded .started [] 0xFFFF#16 false with
        evtOut := [.frame [0x31#8, 0x32#8, 0x33#8]] } := by decide
/-- V-RX-8, second row: fcs_recv has the last byte high, and the mode before the flag makes no difference. -/
theorem test_rxflag_garbage :
    (nextOf (exec .rxFlag (rx .unbounded .unescaping [0x41#8, 0x42#8, 0x43#8] 0x5C0A#16 false))).map State.evtOut =
      some [.errGarbage 0xA3F5#16 0x4342#16] := by decide
/-- V-RX-4: one content byte reports nothing. -/
theorem test_rxflag_runt :
    nextOf (exec .rxFlag (rx .unbounded .started [0x41#8] 0xFFFF#16 false)) =
      some (rx .unbounded .started [] 0xFFFF#16 false) := by decide
/-- V-RX-7, third row: in Unescaping the escape byte is content 5D. -/
theorem test_rxesc_escaped :
    nextOf (exec .rxEsc (rx .unbounded .unescaping [] 0xFFFF#16 false)) =
      some (rx .unbounded .started [0x5D#8] 0xFFFF#16 false) := by decide
/-- P5, step 4. -/
theorem test_rxesc_arms :
    nextOf (exec .rxEsc (rx .unbounded .started [] 0xFFFF#16 false)) =
      some (rx .unbounded .unescaping [] 0xFFFF#16 false) := by decide
/-- V-RX-7, second row: a raw XON inside a frame is data. -/
theorem test_rxdata_xon :
    nextOf (exec (.rxData 0x11#8) (rx .unbounded .started [] 0xFFFF#16 false)) =
      some (rx .unbounded .started [0x11#8] 0xFFFF#16 false) := by decide
/-- P3, step 9: the byte that does not fit. -/
theorem test_rxdata_full :
    nextOf (exec (.rxData 0x31#8) (rx (.bytes 3) .started [0x41#8, 0x42#8, 0xEF#8] 0x5C0A#16 false)) =
      some (rx (.bytes 3) .started [0x41#8, 0x42#8, 0xEF#8] 0x5C0A#16 true) := by decide
/-- P6, step 5. -/
theorem test_rxreset :
    nextOf (exec .rxreset (rx .unbounded .unescaping [0x41#8, 0x42#8, 0x43#8] 0x5C0A#16 false)) = some State.reset := by
  decide
/-- V-RX-5, second row, as a pseudo-operation. -/
theorem test_decode_stream :
    decodeEvents .unbounded [0x7E#8, 0x01#8, 0x00#8, 0x7E#8] = [.errGarbage 0x0000#16 0x0001#16] := by decide

/-! ## Memory -/

theorem test_reset_memory_canonical : Memory.wf State.reset.rxBuf := by decide
theorem test_write_keeps_order :
    memInsert (memInsert (memInsert [] 2 0xCC#8) 0 0xAA#8) 0 0xBB#8 = [(0, 0xBB#8), (2, 0xCC#8)] := by
  decide

/-! ## Witnesses: a concrete state and operands that meet the hypotheses of each statement -/

/-- The buffer of a receiver built above is filled as every run has it. -/
theorem rx_bufferOk (cap : BufCap) (m : Mode) (bs : List Byte) (crc : Word16) (ovf : Bool)
    (h1 : (cells bs).map Prod.fst = List.range bs.length) (h2 : capFits cap bs.length = true) :
    BufferOk (rx cap m bs crc ovf) := ⟨h1, h2⟩

theorem test_witness_reset_invariants : Invariants State.reset :=
  ⟨by decide, ⟨by decide, by decide⟩, by decide, by decide, by decide⟩
/-- Escape pending, buffer exactly full, three bytes stored, accumulator two behind (P3, step 8): NoStepFaults,
RxLenCountsWithinRegister, the clause of FlagJudgesOpenFrame on the invariants. -/
theorem test_witness_open_invariants :
    Invariants (rx (.bytes 3) .unescaping [0x41#8, 0x42#8, 0xEF#8] 0x5C0A#16 false) :=
  ⟨by decide, ⟨by decide, by decide⟩, by decide, by decide, by decide⟩
/-- Overflowed (P3, step 9). -/
theorem test_witness_overflow_invariants :
    Invariants (rx (.bytes 3) .started [0x41#8, 0x42#8, 0xEF#8] 0x5C0A#16 true) :=
  ⟨by decide, ⟨by decide, by decide⟩, by decide, by decide, by decide⟩

theorem test_witness_DecodeEncodeReturnsInstruction :
    (Instr.rxData 0x7F#8).wf = true ∧ (Instr.txLit 0x00#8).wf = true ∧ (Instr.crcstep 0xFFFF#16 0xFF#8).wf = true := by decide
theorem test_witness_DecodedWordReencodes :
    decode (.command 0x2ABCD5E#28) = .ok (.needesc 0x5E#8) ∧ decode (.wire 0xFF#8) = .ok (.rxData 0xFF#8) ∧
      decode (.content 0xFF#8) = .ok (.txLit 0xFF#8) := by decide
theorem test_witness_IgnoredFieldsDoNotMatter :
    decode (.command 0x2ABCD5E#28) = .ok (.needesc 0x5E#8) ∧
      0x2ABCD5E#28 &&& usedMask (.needesc 0x5E#8) = 0x200005E#28 &&& usedMask (.needesc 0x5E#8) := by decide
/-- Codes at both ends of both ranges, and the two next to them. -/
theorem test_witness_ReservedCodesAreRefused :
    [0x0000000#28, 0x8000000#28, 0xF000000#28].map (fun w => refusalIn (step (pending [.command w] State.reset))) =
        [some (.reservedOperationCode 0x0#4), some (.reservedOperationCode 0x8#4), some (.reservedOperationCode 0xF#4)] ∧
      [0x1000000#28, 0x7000000#28].map (fun w => refusalIn (step (pending [.command w] State.reset))) = [none, none] ∧
      capAdmissible State.reset.bufCap = true := by decide
theorem test_witness_StepRunsDecodedInstruction :
    capAdmissible State.reset.bufCap = true ∧ State.reset.inputs = [] ∧
      decode (.command 0x3000000#28) = .ok .txopen ∧ decodeTableWord 28 0x3000000 = some .txopen ∧
      (nextOf (step (State.reset.withFetchWord 28 0x3000000))).map State.wireOut = some [0x7E#8] := by decide
theorem test_witness_BufCapIsFixedAndAtLeastTwo :
    refusalIn (step (State.resetWith (.bytes 1))) = some .bufCapBelowTwo ∧
      refusalIn (step (State.resetWith (.bytes 0))) = some .bufCapBelowTwo ∧
      nextOf (step (State.resetWith (.bytes 2))) = some (State.resetWith (.bytes 2)) := by decide
theorem test_witness_QueuedOperationsRunInIssueOrder :
    (∀ i ∈ [Instr.txopen, .rxFlag, .txbyte 0x41#8], i.wf = true) ∧ capAdmissible State.reset.bufCap = true ∧
      State.reset.inputs = [] := by decide
theorem test_witness_ValidContentLeavesResidue : 2 ≤ ([0x00#8, 0x00#8] : List Byte).length ∧
    crc16 [0x00#8, 0x00#8] = 0xF0B8#16 ∧ crc16 [0x01#8, 0x00#8] ≠ 0xF0B8#16 := by decide
/-- V-RX-5: `00 00` is valid, `01 00` is not. -/
theorem test_witness_OneByteDamageIsDetected :
    0x00#8 ≠ 0x01#8 ∧ classify .unbounded ([] ++ 0x00#8 :: [0x00#8]) = some (.frame []) ∧
      classify (.bytes 2) ([0x00#8] ++ 0x00#8 :: []) = some (.frame []) := by decide
theorem test_witness_StuffedLengths : stuffSeq [0x7E#8] = stuffSeq [0x7E#8] ∧ stuffSeq [0x7E#8] = [0x7D#8, 0x5E#8] := by decide
/-- A state with no frame open and one with a frame open: TxopenOpensFrame, TxbyteSendsStuffedByte, TxcloseSendsFcsAndFlag,
EncodeEmitsFrame, EncodedStreamHidesReservedBytes, TxbyteFollowsItsClassRow. -/
theorem test_witness_transmit_open_and_closed : State.reset.txOpen = false ∧ (txAt 0xFFFF#16).txOpen = true := by decide
theorem test_witness_EncodedFramesDiffer : encodeFrame [] = encodeFrame [] ∧ encodeFrame [] ≠ encodeFrame [0x00#8] := by decide
theorem test_witness_TxCrcCoversPayloadSinceTxopen :
    State.reset.txOpen = false ∧
      (∀ i ∈ [Instr.txbyte 0x7E#8, .rxFlag, .txbyte 0x41#8], i ≠ .txopen ∧ i ≠ .txclose) ∧
      (nextOf (execAll [.txopen, .txbyte 0x7E#8, .rxFlag, .txbyte 0x41#8] State.reset)).map State.txCrc = some 0xC9E1#16 := by
  decide
theorem test_witness_BytesBeforeFirstFlagAreDiscarded : State.reset.rxMode = .notStarted ∧ 0x7D#8 ≠ 0x7E#8 := by decide
theorem test_witness_EscapeByteArmsUnescaping : (rx .unbounded .started [] 0xFFFF#16 false).rxMode = .started := by decide
/-- One cell left: two bytes stored (the accumulator moves) and one (it does not). -/
theorem test_witness_DataByteIsStoredUnchanged :
    BufferOk (rx (.bytes 3) .started [0x41#8, 0x42#8] 0xFFFF#16 false) ∧
      bufferFull (rx (.bytes 3) .started [0x41#8, 0x42#8] 0xFFFF#16 false) = false ∧
      BufferOk (rx (.bytes 2) .started [0x41#8] 0xFFFF#16 false) ∧
      bufferFull (rx (.bytes 2) .started [0x41#8] 0xFFFF#16 false) = false ∧ 0x7F#8 ≠ 0x7E#8 ∧ 0x7F#8 ≠ 0x7D#8 :=
  ⟨rx_bufferOk _ _ _ _ _ (by decide) (by decide), by decide, rx_bufferOk _ _ _ _ _ (by decide) (by decide), by decide,
    by decide, by decide⟩
theorem test_witness_EscapedByteIsStoredTransformed :
    BufferOk (rx (.bytes 3) .unescaping [0x41#8, 0x42#8] 0xFFFF#16 false) ∧
      bufferFull (rx (.bytes 3) .unescaping [0x41#8, 0x42#8] 0xFFFF#16 false) = false ∧
      (rx (.bytes 3) .unescaping [0x41#8, 0x42#8] 0xFFFF#16 false).rxMode = .unescaping ∧ 0x7D#8 ≠ 0x7E#8 :=
  ⟨rx_bufferOk _ _ _ _ _ (by decide) (by decide), by decide, by decide, by decide⟩
theorem test_witness_ContentByteAtFullBufferIsDropped :
    bufferFull (rx (.bytes 2) .started [0x41#8, 0x42#8] 0xFFFF#16 false) = true ∧
      bufferFull (rx (.bytes 2) .unescaping [0x41#8, 0x42#8] 0xFFFF#16 false) = true ∧ 0x31#8 ≠ 0x7E#8 ∧ 0x31#8 ≠ 0x7D#8 := by
  decide
/-- Its clause on the invariants, at length 3 (P3, step 8). -/
theorem test_witness_FlagJudgesOpenFrame_invariants :
    (rx (.bytes 3) .unescaping [0x41#8, 0x42#8, 0xEF#8] 0x5C0A#16 false).rxCrc ^^^ 0xFFFF#16 = fcs16 [0x41#8] := by decide
/-- Lengths 1 and 2 (V-RX-4, V-RX-5), valid and not, in both modes. -/
theorem test_witness_FlagJudgesOpenFrame :
    BufferOk (rx .unbounded .started [0x41#8] 0xFFFF#16 false) ∧
      BufferOk (rx (.bytes 2) .started [0x00#8, 0x00#8] 0xFFFF#16 false) ∧
      BufferOk (rx (.bytes 2) .unescaping [0x01#8, 0x00#8] 0xFFFF#16 false) ∧
      [rx .unbounded .started [0x41#8] 0xFFFF#16 false, rx (.bytes 2) .started [0x00#8, 0x00#8] 0xFFFF#16 false,
          rx (.bytes 2) .unescaping [0x01#8, 0x00#8] 0xFFFF#16 false].map
        (fun s => (nextOf (exec (.rxbyte 0x7E#8) s)).map State.evtOut) =
      [some [], some [.frame []], some [.errGarbage 0x0000#16 0x0001#16]] :=
  ⟨rx_bufferOk _ _ _ _ _ (by decide) (by decide), rx_bufferOk _ _ _ _ _ (by decide) (by decide),
    rx_bufferOk _ _ _ _ _ (by decide) (by decide), by decide⟩
theorem test_witness_FlagReportsOverflow :
    (rx (.bytes 3) .started [0x41#8, 0x42#8, 0xEF#8] 0x5C0A#16 true).rxMode = .started ∧
      (rx (.bytes 3) .started [0x41#8, 0x42#8, 0xEF#8] 0x5C0A#16 true).rxOvf = true := by decide
/-- Filled buffers, not started, open and escaping, full: ReceiveClassRowsActAsRxbyte, ChunkingDoesNotMatter. -/
theorem test_witness_filled_buffers :
    BufferOk State.reset ∧ BufferOk (rx .unbounded .unescaping [0x41#8] 0xFFFF#16 false) ∧
      BufferOk (rx (.bytes 2) .started [0x41#8, 0x42#8] 0xFFFF#16 true) :=
  ⟨⟨by decide, by decide⟩, rx_bufferOk _ _ _ _ _ (by decide) (by decide), rx_bufferOk _ _ _ _ _ (by decide) (by decide)⟩
/-- The premise that an instruction or a step answers a next state, an event included. -/
theorem test_witness_OnlyFlagEmitsAtMostOneEvent :
    (nextOf (exec .rxFlag (rx .unbounded .started [0x00#8, 0x00#8] 0xFFFF#16 false))).map State.evtOut =
      some [.frame []] := by decide
theorem test_witness_FrameDeliveredIffContentValid :
    Invariants (rx (.bytes 2) .started [0x00#8, 0x00#8] 0xFFFF#16 false) ∧
      content (rx (.bytes 2) .started [0x00#8, 0x00#8] 0xFFFF#16 false) =
        [] ++ [lowByte (fcs16 []), highByte (fcs16 [])] ∧
      content (rx (.bytes 2) .started [0x00#8, 0x01#8] 0xFFFF#16 false) ≠
        [] ++ [lowByte (fcs16 []), highByte (fcs16 [])] :=
  ⟨⟨by decide, ⟨by decide, by decide⟩, by decide, by decide, by decide⟩, by decide, by decide⟩
theorem test_witness_EventFieldsAreInRange :
    BufferOk (rx (.bytes 2) .started [0x01#8, 0x00#8] 0xFFFF#16 false) ∧
      (nextOf (exec .rxFlag (rx (.bytes 2) .started [0x01#8, 0x00#8] 0xFFFF#16 false))).map State.evtOut =
        some ([] ++ [.errGarbage 0x0000#16 0x0001#16]) :=
  ⟨rx_bufferOk _ _ _ _ _ (by decide) (by decide), by decide⟩
/-- BUF_CAP 3: a payload of one byte just fits, one of two does not (P3). -/
theorem test_witness_RoundTripDeliversPayload :
    State.reset.txOpen = false ∧ capAdmissible (BufCap.bytes 3) = true ∧ capFits (.bytes 3) (1 + 2) = true ∧
      capFits (.bytes 3) (2 + 2) = false := by decide
theorem test_witness_TwoFramesDecodeInOrder : capFits (.bytes 2) ([] : List Byte).length.succ.succ = true ∧
    capFits (.bytes 3) (([0x41#8] : List Byte).length + 2) = true := by decide
/-- The first payload byte of V-TX-3, bit 0 flipped. -/
theorem test_witness_SingleBitFlipIsGarbage :
    encodeFrame [0x41#8] = 0x7E#8 :: ([] ++ 0x41#8 :: [0xF5#8, 0xA3#8]) ++ [0x7E#8] ∧ 0x41#8 ≠ 0x7D#8 ∧
      0x41#8 ^^^ (1#8 <<< 0) ≠ 0x7E#8 ∧ 0x41#8 ^^^ (1#8 <<< 0) ≠ 0x7D#8 ∧ 0 < 8 ∧ capFits .unbounded (1 + 2) = true := by
  decide
/-- V-TX-6. -/
theorem test_witness_FlipOfEscapedEscapeIsGarbage :
    encodeFrame [0x7D#8] = 0x7E#8 :: ([] ++ 0x7D#8 :: 0x5D#8 :: [0x1A#8, 0x58#8]) ++ [0x7E#8] ∧
      capFits .unbounded (([0x7D#8] : List Byte).length + 2) = true := by decide
theorem test_witness_FlagResynchronises :
    BufferOk (rx (.bytes 3) .notStarted [] 0xFFFF#16 false) ∧
      BufferOk (rx (.bytes 3) .unescaping [0x41#8, 0x42#8, 0x43#8] 0x5C0A#16 true) :=
  ⟨rx_bufferOk _ _ _ _ _ (by decide) (by decide), rx_bufferOk _ _ _ _ _ (by decide) (by decide)⟩
theorem test_witness_ResetLeavesStatedValues :
    capAdmissible State.reset.bufCap = true ∧
      nextOf (step { txAt 0x957E#16 with rxMode := .started, inputs := [.hardwareReset] }) = some State.reset := by decide
theorem test_witness_InvariantsAtReset : capAdmissible (.bytes 2) = true ∧ capAdmissible (.bytes 1) = false := by decide
/-- With test_witness_open_invariants: a step from a state with the invariants, with an operation pending. -/
theorem test_witness_EveryStepKeepsInvariants :
    Invariants (pending [.wire 0x61#8] (rx (.bytes 4) .unescaping [0x41#8, 0x42#8, 0xEF#8] 0x5C0A#16 false)) ∧
      nextOf (step (pending [.wire 0x61#8] (rx (.bytes 4) .unescaping [0x41#8, 0x42#8, 0xEF#8] 0x5C0A#16 false))) =
        some (rx (.bytes 4) .started [0x41#8, 0x42#8, 0xEF#8, 0x41#8] 0xCE10#16 false) :=
  ⟨⟨by decide, ⟨by decide, by decide⟩, by decide, by decide, by decide⟩, by decide⟩
theorem test_witness_EveryOperationInOrderCompletes :
    BufferOk State.reset ∧ inOrder .txopen State.reset = true ∧ inOrder (.txbyte 0#8) State.reset = false ∧
      inOrder .txclose (txAt 0xFFFF#16) = true := ⟨⟨by decide, by decide⟩, by decide, by decide, by decide⟩
/-- Read at index `rx_len` exactly. -/
theorem test_witness_ReadsAboveLengthGiveNoValue :
    (rx .unbounded .started [0x41#8] 0xFFFF#16 false).rxLen ≤ 1 ∧
      (memRead 0 (rx .unbounded .started [0x41#8] 0xFFFF#16 false)).toOption = some 0x41#8 := by decide
/-- One instruction of each side that completes: also the premise of OutputsAreNeverRead and RxresetClearsReceiver. -/
theorem test_witness_SidesShareNoState :
    isTransmit .txopen = true ∧ isReceive .rxreset = true ∧ isTransmit (.needesc 0#8) = false ∧
      isReceive (.needesc 0#8) = false ∧
      [Instr.txopen, .rxreset, .needesc 0#8].map (fun i => (nextOf (exec i State.reset)).isSome) = [true, true, true] := by
  decide
theorem test_witness_TransmitAndReceiveCommute :
    isTransmit .txopen = true ∧ isReceive (.rxbyte 0x7E#8) = true ∧
      (nextOf (execAll [.txopen, .rxbyte 0x7E#8] State.reset)).isSome = true ∧
      nextOf (execAll [.rxbyte 0x7E#8, .txopen] State.reset) = nextOf (execAll [.txopen, .rxbyte 0x7E#8] State.reset) := by
  decide
/-- Each way the mode can change. -/
theorem test_witness_ModeChangesAreTheListed :
    (nextOf (exec .rxreset (rx .unbounded .started [] 0xFFFF#16 false))).map State.rxMode = some .notStarted ∧
      (nextOf (exec .rxFlag State.reset)).map State.rxMode = some .started ∧
      (nextOf (exec .rxEsc (rx .unbounded .started [] 0xFFFF#16 false))).map State.rxMode = some .unescaping ∧
      (nextOf (exec (.needesc 0#8) (rx .unbounded .unescaping [] 0xFFFF#16 false))).map State.rxMode = some .unescaping := by
  decide
theorem test_witness_RxLenCountsWithinRegister :
    rxLenBits (.bytes 3) = some 2 ∧ rxLenBits (.bytes 4) = some 3 ∧
      (rx (.bytes 3) .unescaping [0x41#8, 0x42#8, 0xEF#8] 0x5C0A#16 false).rxLen = 3 := by decide
theorem test_witness_BufferChangesOneCellAtLength :
    Memory.wf (rx (.bytes 3) .started [0x41#8, 0x42#8] 0xFFFF#16 false).rxBuf ∧
      (nextOf (exec (.rxData 0x43#8) (rx (.bytes 3) .started [0x41#8, 0x42#8] 0xFFFF#16 false))).map
        (fun t => memLookup t.rxBuf 2) = some (some 0x43#8) := by decide

end Sys2Proof.Tests
end

section
/-! The transmit registers along a run (10_state.md R26 and invariant 6 of R32): which instruction moves them and how, and
from that O26. -/

namespace Sys2Proof.Machine

open Sys2Proof.Safety

/-! ## The receive side leaves the transmit registers -/

theorem appendByte_txView {s t : State} {v : Byte} (h : appendByte v s = .ok t) : txView t = txView s := by
  obtain ⟨_, rfl⟩ | ⟨_, _, c, _, rfl⟩ := appendByte_cases h
  · rfl
  · rfl

theorem frameBoundary_txView {s t : State} (h : frameBoundary s = .ok t) : txView t = txView s := by
  obtain rfl | ⟨e, rfl⟩ := frameBoundary_cases h
  · rfl
  · rfl

theorem rxEffect_txView {s t : State} (h : RxEffect s t) : txView t = txView s := by
  cases h with
  | discard | opened | escape => rfl
  | data v t _ ha => exact appendByte_txView ha
  | transformed v u _ ha =>
    calc txView (setRxMode .started u)
      _ = txView u := rfl
      _ = txView s := appendByte_txView ha
  | boundary t _ hb => exact frameBoundary_txView hb

/-! ## The transmit operations in order -/

theorem exec_txopen_of_closed {s : State} (h : s.txOpen = false) :
    exec .txopen s = .next (setTxOpen true (setTxCrc crcReset (emitWire [flagByte] s))) := by
  simp [exec, execTxopen, h]

theorem exec_txbyte_of_open {s : State} (h : s.txOpen = true) (b : Byte) :
    exec (.txbyte b) s = .next (emitWire (stuff b) (setTxCrc (crc16Step s.txCrc b) s)) := by
  simp [exec, execTxbyte, h]

theorem exec_txbyte_of_closed {s : State} (h : s.txOpen = false) (b : Byte) :
    exec (.txbyte b) s = .refused .txByteWithoutFrame := by
  simp [exec, execTxbyte, h]

/-- TXCLOSE (R133): where the accumulator is the CRC of `p`, the FCS of `p` is sent, low byte first, and the flag. -/
theorem exec_txclose_of_open {s : State} {p : List Byte} (ho : s.txOpen = true) (hc : s.txCrc = crc16 p) :
    exec .txclose s = .next (setTxOpen false (emitWire (stuffSeq (fcsBytes p) ++ [flagByte]) s)) := by
  simp [exec, execTxclose, ho, hc, stuffSeq, fcsBytes, fcs16]

/-! ## One operation and many -/

theorem execAll_cons_eq_next {i : Instr} {is : List Instr} {s t : State} :
    execAll (i :: is) s = .next t ↔ ∃ u, exec i s = .next u ∧ execAll is u = .next t := by
  cases hi : exec i s with
  | next u => simp [execAll, hi]
  | fault f => simp [execAll, hi]
  | refused r => simp [execAll, hi]

/-- Between TXOPEN and TXCLOSE one operation moves only `tx_crc`, and only by its payload byte, if it has one. -/
theorem exec_txView {i : Instr} {s t : State} (ho : i ≠ .txopen) (hc : i ≠ .txclose) (h : exec i s = .next t) :
    txView t = (crcFrom s.txCrc (txPayload i).toList, s.txOpen) := by
  cases i with
  | txopen => exact absurd rfl ho
  | txclose => exact absurd rfl hc
  | txbyte b =>
    cases hs : s.txOpen with
    | false => rw [exec_txbyte_of_closed hs] at h; cases h
    | true =>
      rw [exec_txbyte_of_open hs] at h
      cases h
      exact congrArg (crc16Step s.txCrc b, ·) hs
  | rxbyte b => exact rxEffect_txView (execRxbyte_effect h)
  | rxFlag => exact rxEffect_txView (wireFlag_effect (settle_eq_next.1 h))
  | rxEsc => exact rxEffect_txView (wireEsc_effect (settle_eq_next.1 h))
  | rxData b => exact rxEffect_txView (wireData_effect (settle_eq_next.1 h))
  | crcstep | needesc | rxreset | txStuff7E | txStuff7D | txStuff11 | txStuff13 | txStuffF8 | txLit => cases h; rfl

theorem filterMap_txPayload_cons (i : Instr) (is : List Instr) :
    (i :: is).filterMap txPayload = (txPayload i).toList ++ is.filterMap txPayload := by
  cases hp : txPayload i <;> simp [hp]

/-- Operations with no TXOPEN and no TXCLOSE run `tx_crc` over their payload bytes and leave `tx_open`. -/
theorem execAll_txView {ops : List Instr} {s t : State} (hops : ∀ i ∈ ops, i ≠ .txopen ∧ i ≠ .txclose)
    (h : execAll ops s = .next t) : txView t = (crcFrom s.txCrc (ops.filterMap txPayload), s.txOpen) := by
  induction ops generalizing s with
  | nil => cases h; rfl
  | cons i is ih =>
    obtain ⟨⟨ho, hc⟩, his⟩ := List.forall_mem_cons.1 hops
    obtain ⟨u, hu, ht⟩ := execAll_cons_eq_next.1 h
    obtain ⟨hcrc, hopen⟩ := Prod.mk.inj (exec_txView ho hc hu)
    rw [ih his ht, hcrc, hopen, filterMap_txPayload_cons, crcFrom_append]

/-- Settles O26: TXOPEN seeds the accumulator and opens the frame, the operations after it run the CRC over the payload
(`execAll_txView`), and TXCLOSE sends what the accumulator then says. -/
theorem txCrcCoversPayloadSinceTxopen : Obligations.TxCrcCoversPayloadSinceTxopen := by
  intro ops s t hs hops h
  rw [execAll_cons_next (exec_txopen_of_closed hs)] at h
  obtain ⟨hcrc, hopen⟩ := Prod.mk.inj (execAll_txView hops h)
  refine ⟨hopen, hcrc, _, exec_txclose_of_open hopen hcrc, ?_⟩
  exact (List.append_assoc _ _ _).symm

end Sys2Proof.Machine
end

section
/-! The bytes one ENCODE sends (42_tx_encoder.md R134) and what stuffing keeps out of them (30_encoding.md R78), and
from that O24. -/

namespace Sys2Proof.Machine

/-! ## Stuffing -/

/-- The escape set (41_escape.md R120). -/
def escapeSet : List Byte := [flagByte, escByte, xonByte, xoffByte, specialByte]

/-- The second bytes of the five escape pairs (30_encoding.md R75). -/
def escapedForms : List Byte := [0x5E#8, 0x5D#8, 0x31#8, 0x33#8, 0xD8#8]

theorem needsEscape_iff {b : Byte} : needsEscape b = true ↔ b ∈ escapeSet := by
  simp [needsEscape, escapeSet, or_assoc]

theorem escapeTransform_mem_escapedForms {b : Byte} (h : b ∈ escapeSet) : escapeTransform b ∈ escapedForms := by
  have hmap : escapeSet.map escapeTransform = escapedForms := by decide
  exact hmap ▸ List.mem_map_of_mem h

theorem stuff_of_mem {b : Byte} (h : b ∈ escapeSet) : stuff b = [escByte, escapeTransform b] := by
  simp [stuff, needsEscape_iff.2 h]

theorem stuff_of_notMem {b : Byte} (h : b ∉ escapeSet) : stuff b = [b] := by
  simp [stuff, mt needsEscape_iff.1 h]

@[simp] theorem stuffSeq_nil : stuffSeq [] = [] := rfl

@[simp] theorem stuffSeq_cons (b : Byte) (bs : List Byte) : stuffSeq (b :: bs) = stuff b ++ stuffSeq bs := rfl

@[simp] theorem stuffSeq_append (as bs : List Byte) : stuffSeq (as ++ bs) = stuffSeq as ++ stuffSeq bs :=
  List.flatMap_append

/-! ## Reserved bytes in stuffed content -/

theorem notMem_escapeSet_of_mem_escapedForms {v : Byte} (h : v ∈ escapedForms) : v ∉ escapeSet := by
  have hall : ∀ v ∈ escapedForms, v ∉ escapeSet := by decide
  exact hall v h

/-- Of the escape set only the escape byte shows in stuffed content. -/
theorem eq_escByte_of_mem_stuffSeq {w : Byte} {bs : List Byte} (hw : w ∈ stuffSeq bs) (he : w ∈ escapeSet) :
    w = escByte := by
  obtain ⟨b, -, hwb⟩ := List.mem_flatMap.1 hw
  by_cases hb : b ∈ escapeSet
  · rw [stuff_of_mem hb] at hwb
    obtain rfl | hwb := List.mem_cons.1 hwb
    · rfl
    · obtain rfl := List.mem_singleton.1 hwb
      exact absurd he (notMem_escapeSet_of_mem_escapedForms (escapeTransform_mem_escapedForms hb))
  · rw [stuff_of_notMem hb] at hwb
    obtain rfl := List.mem_singleton.1 hwb
    exact absurd he hb

/-- In stuffed content the escape byte stands only as the first byte of one of the five pairs. -/
theorem escapedForm_follows_escByte {bs pre post : List Byte} (h : stuffSeq bs = pre ++ escByte :: post) :
    ∃ v rest, post = v :: rest ∧ v ∈ escapedForms := by
  induction bs generalizing pre with
  | nil => simp at h
  | cons b bs ih =>
    by_cases hb : b ∈ escapeSet
    · have hv := escapeTransform_mem_escapedForms hb
      rw [stuffSeq_cons, stuff_of_mem hb] at h
      match pre with
      | [] => exact ⟨_, _, (List.cons.inj h).2.symm, hv⟩
      | [_] =>
        obtain ⟨-, heq, -⟩ : _ ∧ escapeTransform b = escByte ∧ _ := by simpa using h
        exact absurd (heq ▸ hv) (by decide)
      | _ :: _ :: pre => exact ih (List.cons.inj (List.cons.inj h).2).2
    · rw [stuffSeq_cons, stuff_of_notMem hb] at h
      match pre with
      | [] => exact absurd (show b ∈ escapeSet from (List.cons.inj h).1 ▸ by decide) hb
      | _ :: pre => exact ih (List.cons.inj h).2

/-! ## The operations of one ENCODE -/

/-- The TXBYTEs of an open frame send the stuffed bytes and run the CRC over the bytes themselves. -/
theorem execAll_map_txbyte {s : State} (h : s.txOpen = true) (p : List Byte) :
    execAll (p.map .txbyte) s = .next (emitWire (stuffSeq p) (setTxCrc (crcFrom s.txCrc p) s)) := by
  induction p generalizing s with
  | nil => simp [crcFrom, setTxCrc, emitWire]
  | cons b p ih =>
    rw [List.map_cons, execAll_cons_next (exec_txbyte_of_open h b), ih (by simpa using h), stuffSeq_cons,
      ← emitWire_emitWire]
    rfl

/-- What one ENCODE leaves (R134): its frame on the wire, the CRC of its payload in `tx_crc`, the rest as it was. -/
theorem execAll_encodeOps {s : State} (h : s.txOpen = false) (p : List Byte) :
    execAll (encodeOps p) s = .next (emitWire (encodeFrame p) (setTxCrc (crc16 p) s)) := by
  rw [encodeOps, execAll_cons_next (exec_txopen_of_closed h), execAll_append_next (execAll_map_txbyte rfl p),
    execAll_cons_next (exec_txclose_of_open rfl rfl), execAll_nil]
  refine congrArg _ (state_ext rfl rfl rfl rfl rfl rfl rfl h.symm ?_ rfl rfl rfl)
  simp [encodeFrame]

/-- Settles O24: between the two flags `ENCODE` sends stuffed content, which shows no reserved byte but the escape byte
(`eq_escByte_of_mem_stuffSeq`), and that only in a pair (`escapedForm_follows_escByte`). -/
theorem encodedStreamHidesReservedBytes : Obligations.EncodedStreamHidesReservedBytes := by
  intro p s hs
  refine ⟨_, stuffSeq (p ++ fcsBytes p), execAll_encodeOps hs p, ?_, fun w hw => ?_,
    fun _ _ h => escapedForm_follows_escByte h⟩
  · simp [encodeFrame]
  · have hne : ∀ r ∈ escapeSet, r ≠ escByte → w ≠ r := fun r hr hesc hwr =>
      hesc (hwr ▸ eq_escByte_of_mem_stuffSeq hw (hwr ▸ hr))
    exact ⟨hne flagByte (by decide) (by decide), hne xonByte (by decide) (by decide),
      hne xoffByte (by decide) (by decide), hne specialByte (by decide) (by decide)⟩

end Sys2Proof.Machine
end

section
/-! The running CRC of a byte sequence and the CRCSTEPs that compute it (40_crc.md R104), and from that O13. -/

namespace Sys2Proof.Machine

/-! ## The running CRC -/

@[simp] theorem crcFrom_nil (c : Word16) : crcFrom c [] = c := rfl

@[simp] theorem crcFrom_cons (c : Word16) (b : Byte) (bs : List Byte) :
    crcFrom c (b :: bs) = crcFrom (crc16Step c b) bs := rfl

theorem crc16_concat (bs : List Byte) (b : Byte) : crc16 (bs ++ [b]) = crc16Step (crc16 bs) b :=
  crcFrom_append crcReset bs [b]

/-! ## The operations of one CRC16 -/

theorem exec_crcstep (c : Word16) (b : Byte) (s : State) :
    exec (.crcstep c b) s = .next (emitResult (.crc (crc16Step c b)) s) := rfl

/-- The results of the CRCSTEPs from accumulator `c`: the running CRC of every non-empty prefix, shortest first. -/
def prefixCrcs (c : Word16) (bs : List Byte) : List Result :=
  (List.range bs.length).map fun k => .crc (crcFrom c (bs.take (k + 1)))

@[simp] theorem prefixCrcs_nil (c : Word16) : prefixCrcs c [] = [] := rfl

/-- The prefixes of `b :: bs` are `[b]` and `b` before each prefix of `bs`. -/
theorem prefixCrcs_cons (c : Word16) (b : Byte) (bs : List Byte) :
    prefixCrcs c (b :: bs) = .crc (crc16Step c b) :: prefixCrcs (crc16Step c b) bs := by
  simp [prefixCrcs, List.range_succ_eq_map]

/-- From any accumulator the CRCSTEPs of `CRC16` append the CRCs of the prefixes to `res_out` and leave the rest. -/
theorem execAll_crcOpsFrom (c : Word16) (bs : List Byte) (s : State) :
    execAll (crcOpsFrom c bs) s = .next { s with resOut := s.resOut ++ prefixCrcs c bs } := by
  induction bs generalizing c s with
  | nil => simp [crcOpsFrom]
  | cons b bs ih =>
    rw [crcOpsFrom, execAll_cons_next (exec_crcstep c b s), ih, prefixCrcs_cons]
    simp

/-- Settles O13: the sequence equations are those of the fold from the seed, and the operations are
`execAll_crcOpsFrom` at the seed. -/
theorem crcOperationsGiveRunningCrc : Obligations.CrcOperationsGiveRunningCrc :=
  ⟨rfl, crc16_concat, execAll_crcOpsFrom crcReset⟩

end Sys2Proof.Machine
end

section
/-! The escape unit: NEEDESC (41_escape.md R120), the six transmit class rows (R122), stuffing undone (R124) and its
lengths (R123, 30_encoding.md R76), and from these O16, O17, O18 and O27. -/

namespace Sys2Proof.Machine

/-! ## The escape set -/

theorem needsEscape_eq_decide (b : Byte) : needsEscape b = decide (b ∈ escapeSet) := by
  rw [Bool.eq_iff_iff, needsEscape_iff, decide_eq_true_iff]

/-- A tuple of code 0x2 is NEEDESC of its byte, whatever its crc field (30_encoding.md R82). -/
theorem decode_needesc_tuple (crc : Word16) (b : Byte) :
    decode (.command (makeTuple 0x2#4 crc b)) = .ok (.needesc b) := by
  simp [decode, decodeTuple]

theorem exec_needesc (b : Byte) (s : State) :
    exec (.needesc b) s = .next (emitResult (.needEsc (needsEscape b)) s) := rfl

/-- Settles O16: `needsEscape`, whose answer NEEDESC emits, is membership in the five of the escape set. -/
theorem needescTestsEscapeSet : Obligations.NeedescTestsEscapeSet := by
  refine fun crc b s => ⟨decode_needesc_tuple crc b, ?_⟩
  rw [exec_needesc, needsEscape_eq_decide]
  rfl

/-! ## The transmit class rows -/

/-- The class row of a content byte emits the byte's wire form and leaves the rest (R122). -/
theorem exec_decodeContent (b : Byte) (s : State) : exec (decodeContent b) s = .next (emitWire (stuff b) s) := by
  by_cases hb : b ∈ escapeSet
  · have hrows : ∀ r ∈ escapeSet, exec (decodeContent r) s = .next (emitWire (stuff r) s) := by
      simp only [escapeSet, List.forall_mem_cons]
      exact ⟨rfl, rfl, rfl, rfl, rfl, List.forall_mem_nil _⟩
    exact hrows b hb
  · have hlit : decodeContent b = .txLit b := by
      simp only [escapeSet, List.mem_cons, List.not_mem_nil, or_false, not_or] at hb
      simp [decodeContent, hb]
    rw [hlit, stuff_of_notMem hb]
    rfl

/-- Settles O27: each `TX.STUFF` row is the class row of its reserved byte, and TX.LIT emits its operand. -/
theorem transmitClassesEmitWireForms : Obligations.TransmitClassesEmitWireForms := fun s =>
  ⟨exec_decodeContent flagByte s, exec_decodeContent escByte s, exec_decodeContent xonByte s,
    exec_decodeContent xoffByte s, exec_decodeContent specialByte s, fun _ => rfl⟩

/-! ## Un-stuffing -/

theorem escapeTransform_escapeTransform (b : Byte) : escapeTransform (escapeTransform b) = b := by
  rw [escapeTransform, escapeTransform, BitVec.xor_assoc, BitVec.xor_self, BitVec.xor_zero]

theorem unstuff_esc_cons (v : Byte) (ws : List Byte) :
    unstuff (escByte :: v :: ws) = escapeTransform v :: unstuff ws := by
  simp [unstuff]

theorem unstuff_cons_of_ne {w : Byte} (h : w ≠ escByte) (ws : List Byte) : unstuff (w :: ws) = w :: unstuff ws := by
  cases ws with
  | nil => simp [unstuff, h]
  | cons v ws => simp [unstuff, h]

/-- The wire form of one content byte un-stuffs to that byte, and what follows un-stuffs on its own. -/
theorem unstuff_stuff_append (b : Byte) (ws : List Byte) : unstuff (stuff b ++ ws) = b :: unstuff ws := by
  by_cases hb : b ∈ escapeSet
  · rw [stuff_of_mem hb, List.cons_append, List.singleton_append, unstuff_esc_cons, escapeTransform_escapeTransform]
  · have hesc : b ≠ escByte := fun h => hb (h ▸ by decide)
    rw [stuff_of_notMem hb, List.singleton_append, unstuff_cons_of_ne hesc]

theorem unstuff_stuffSeq_append (c ws : List Byte) : unstuff (stuffSeq c ++ ws) = c ++ unstuff ws := by
  induction c with
  | nil => rfl
  | cons b c ih => rw [stuffSeq_cons, List.append_assoc, unstuff_stuff_append, ih, List.cons_append]

/-- Settles O17, byte by byte: `unstuff_stuff_append` along the content. -/
theorem unstuffInvertsStuffing : Obligations.UnstuffInvertsStuffing := unstuff_stuffSeq_append

/-! ## Lengths -/

theorem unstuff_stuffSeq (c : List Byte) : unstuff (stuffSeq c) = c := by
  simpa [unstuff] using unstuff_stuffSeq_append c []

theorem stuffSeq_injective : Function.Injective stuffSeq :=
  Function.LeftInverse.injective unstuff_stuffSeq

theorem length_stuff (b : Byte) : (stuff b).length = if needsEscape b then 2 else 1 := by
  rw [stuff]
  split <;> rfl

theorem length_stuffSeq (c : List Byte) : (stuffSeq c).length = c.length + c.countP needsEscape := by
  induction c with
  | nil => rfl
  | cons b c ih =>
    rw [stuffSeq_cons, List.length_append, length_stuff, ih, List.length_cons, List.countP_cons]
    split <;> omega

/-- A frame is two flags around its stuffed payload and FCS. -/
theorem length_encodeFrame (p : List Byte) :
    (encodeFrame p).length = p.length + 4 + (p ++ fcsBytes p).countP needsEscape := by
  simp only [encodeFrame, List.length_cons, List.length_append, length_stuffSeq, fcsBytes, List.length_nil]
  omega

/-- Settles O18: stuffing has a left inverse (`unstuff_stuffSeq`), and of the n + 2 bytes a frame stuffs between none
and all are reserved. -/
theorem stuffedLengths : Obligations.StuffedLengths := by
  refine ⟨fun _ _ h => stuffSeq_injective h, length_stuffSeq, fun p => ?_⟩
  have hreserved : (p ++ fcsBytes p).countP needsEscape ≤ p.length + 2 :=
    List.countP_le_length.trans_eq List.length_append
  rw [length_encodeFrame]
  omega

end Sys2Proof.Machine
end

section
/-! The transmit operations as the caller issues them: the words, the outcome in order and the refusal out of order
(42_tx_encoder.md R131 to R135, decision D10), and from that O19, O20, O21, O22, O23, O25 and O28. -/

namespace Sys2Proof.Machine

open Sys2Proof.Safety

/-! ## The words -/

/-- A tuple of code 0x3 is TXOPEN, whatever its other fields (30_encoding.md R81, R82). -/
theorem decode_txopen_tuple (crc : Word16) (b : Byte) : decode (.command (makeTuple 0x3#4 crc b)) = .ok .txopen := by
  simp [decode, decodeTuple]

/-- A tuple of code 0x4 is TXBYTE of its byte, whatever its crc field. -/
theorem decode_txbyte_tuple (crc : Word16) (b : Byte) :
    decode (.command (makeTuple 0x4#4 crc b)) = .ok (.txbyte b) := by
  simp [decode, decodeTuple]

/-- A tuple of code 0x5 is TXCLOSE, whatever its other fields. -/
theorem decode_txclose_tuple (crc : Word16) (b : Byte) :
    decode (.command (makeTuple 0x5#4 crc b)) = .ok .txclose := by
  simp [decode, decodeTuple]

/-! ## The order -/

theorem exec_txopen_of_open {s : State} (h : s.txOpen = true) : exec .txopen s = .refused .txOpenWhileFrameOpen := by
  simp [exec, execTxopen, h]

theorem exec_txclose_of_closed {s : State} (h : s.txOpen = false) :
    exec .txclose s = .refused .txCloseWithoutFrame := by
  simp [exec, execTxclose, h]

/-- TXCLOSE from any accumulator (R133): its complement goes out, low byte then high byte, each stuffed on its own, and
the flag. -/
theorem exec_txclose_sends_finishCrc {s : State} (h : s.txOpen = true) :
    exec .txclose s =
      .next (setTxOpen false
        (emitWire (stuffSeq [lowByte (finishCrc s.txCrc), highByte (finishCrc s.txCrc)] ++ [flagByte]) s)) := by
  simp [exec, execTxclose, h]

/-- Settles O19: the word of code 0x3, and TXOPEN with no frame open and with one open. -/
theorem txopenOpensFrame : Obligations.TxopenOpensFrame :=
  fun crc b _ => ⟨decode_txopen_tuple crc b, exec_txopen_of_closed, exec_txopen_of_open⟩

/-- Settles O20: the word of code 0x4, and TXBYTE with a frame open and with none open; `stuff` is the choice the
statement writes out. -/
theorem txbyteSendsStuffedByte : Obligations.TxbyteSendsStuffedByte :=
  fun crc b _ => ⟨decode_txbyte_tuple crc b, fun h => exec_txbyte_of_open h b, fun h => exec_txbyte_of_closed h b⟩

/-- Settles O21: the word of code 0x5, and TXCLOSE with a frame open and with none open. -/
theorem txcloseSendsFcsAndFlag : Obligations.TxcloseSendsFcsAndFlag := by
  refine fun crc b s => ⟨decode_txclose_tuple crc b, fun h => ?_, exec_txclose_of_closed⟩
  rw [exec_txclose_sends_finishCrc h]
  refine congrArg _ (state_ext rfl rfl rfl rfl rfl rfl rfl rfl ?_ rfl rfl rfl)
  exact (List.append_assoc _ _ _).symm

/-- Settles O22: the three primitives ask for `tx_open`, the receive side ends in `settle`, which refuses nothing, and
every other instruction completes. -/
theorem onlyMisorderedTransmitIsRefused : Obligations.OnlyMisorderedTransmitIsRefused := by
  intro i s
  cases i with
  | txopen =>
    cases h : s.txOpen with
    | false => simp [exec_txopen_of_closed h, inOrder, h]
    | true => simp [exec_txopen_of_open h, inOrder, h]
  | txbyte b =>
    cases h : s.txOpen with
    | false => simp [exec_txbyte_of_closed h, inOrder, h]
    | true => simp [exec_txbyte_of_open h, inOrder, h]
  | txclose =>
    cases h : s.txOpen with
    | false => simp [exec_txclose_of_closed h, inOrder, h]
    | true => simp [exec_txclose_sends_finishCrc h, inOrder, h]
  | rxbyte | rxFlag | rxEsc | rxData =>
    exact iff_of_false (fun ⟨r, h⟩ => settle_ne_refused _ r h) Bool.noConfusion
  | crcstep | needesc | rxreset | txStuff7E | txStuff7D | txStuff11 | txStuff13 | txStuffF8 | txLit =>
    exact iff_of_false (fun ⟨_, h⟩ => nomatch h) Bool.noConfusion

/-- Settles O28: both send the byte's wire form, TXBYTE by `exec_txbyte_of_open` and the row by `exec_decodeContent`. -/
theorem txbyteFollowsItsClassRow : Obligations.TxbyteFollowsItsClassRow := by
  intro b s h
  rw [exec_txbyte_of_open h, exec_decodeContent]
  rfl

/-! ## The frame -/

/-- Settles O23: `execAll_encodeOps`, with its two updates written out. -/
theorem encodeEmitsFrame : Obligations.EncodeEmitsFrame := fun p _ h => execAll_encodeOps h p

/-- A frame is the stuffed content between two flags, and the FCS is the last two content bytes, so the frame gives the
payload back. -/
theorem encodeFrame_injective : Function.Injective encodeFrame := by
  intro p q h
  have hstuffed : stuffSeq (p ++ fcsBytes p) = stuffSeq (q ++ fcsBytes q) :=
    List.append_cancel_right (List.cons.inj h).2
  exact List.append_inj_left' (stuffSeq_injective hstuffed) rfl

/-- Settles O25: `encodeFrame_injective`. -/
theorem encodedFramesDiffer : Obligations.EncodedFramesDiffer := fun _ _ h => encodeFrame_injective h

end Sys2Proof.Machine
end

section
/-! The receiver with an open frame that has taken in given content: its state in closed form, what a content byte, an
escape pair and a flag make of it (43_rx_decoder.md R153 to R158), and from that the round trip O43. -/

namespace Sys2Proof.Machine

open Sys2Proof.Safety

/-! ## BUF_CAP and the content that fits -/

@[simp] theorem capTake_nil (cap : BufCap) : capTake cap [] = [] := by
  cases cap <;> simp [capTake]

@[simp] theorem capFits_zero (cap : BufCap) : capFits cap 0 = true := by
  cases cap <;> simp [capFits]

theorem capTake_of_fits {cap : BufCap} {c : List Byte} (h : capFits cap c.length = true) : capTake cap c = c := by
  cases cap with
  | unbounded => rfl
  | bytes n => exact List.take_of_length_le (by simpa [capFits] using h)

theorem capFits_length_capTake (cap : BufCap) (c : List Byte) : capFits cap (capTake cap c).length = true := by
  cases cap with
  | unbounded => rfl
  | bytes n => simp [capFits, capTake]

/-- A buffer filled by `c` to its capacity has no room for another byte. -/
theorem capFits_succ_of_full {cap : BufCap} {c : List Byte} (h : capFull cap (capTake cap c).length = true) :
    capFits cap (c.length + 1) = false := by
  cases cap with
  | unbounded => simp [capFull] at h
  | bytes n =>
    have hn : min n c.length = n := by simpa [capFull, capTake] using h
    simp only [capFits, decide_eq_false_iff_not]
    omega

/-- Where the buffer filled by `c` is not full, all of `c` is in it and one more byte fits. -/
theorem capFits_succ_of_not_full {cap : BufCap} {c : List Byte} (h : capFull cap (capTake cap c).length = false) :
    capFits cap (c.length + 1) = true := by
  cases cap with
  | unbounded => rfl
  | bytes n =>
    have hn : min n c.length ≠ n := by simpa [capFull, capTake] using h
    simp only [capFits, decide_eq_true_eq]
    omega

theorem capFits_of_succ {cap : BufCap} {n : Nat} (h : capFits cap (n + 1) = true) : capFits cap n = true := by
  cases cap with
  | unbounded => rfl
  | bytes k =>
    simp only [capFits, decide_eq_true_eq] at h ⊢
    omega

/-- Bytes behind a full buffer are not taken. -/
theorem capTake_concat_of_full {cap : BufCap} {c : List Byte} (v : Byte)
    (h : capFull cap (capTake cap c).length = true) : capTake cap (c ++ [v]) = capTake cap c := by
  cases cap with
  | unbounded => simp [capFull] at h
  | bytes n =>
    have hn : min n c.length = n := by simpa [capFull, capTake] using h
    exact List.take_append_of_le_length (by omega)

/-! ## The open frame in closed form -/

/-- The buffer cells that hold these bytes from index 0. -/
def filledCells (bs : List Byte) : Memory := (List.range bs.length).zip bs

theorem holds_filledCells (bs : List Byte) : Memory.holds (filledCells bs) bs.length :=
  List.map_fst_zip (by simp)

theorem memBytes_filledCells (bs : List Byte) : memBytes (filledCells bs) = bs :=
  List.map_snd_zip (by simp)

/-- The next byte goes to the first index that holds no value. -/
theorem memInsert_filledCells (bs : List Byte) (v : Byte) :
    memInsert (filledCells bs) bs.length v = filledCells (bs ++ [v]) := by
  have hlen : (bs ++ [v]).length = bs.length + 1 := by simp
  refine holds_ext (holds_memInsert (holds_filledCells bs) v) (hlen ▸ holds_filledCells (bs ++ [v])) ?_
  rw [memBytes_memInsert (holds_filledCells bs), memBytes_filledCells, memBytes_filledCells]

/-- The framer `s` with its receiver in mode `m` and a frame open that has taken in the content `c`: the buffer holds
what fits of `c`, the accumulator is two bytes behind the buffer, and the overflow flag says that `c` does not fit. -/
def withContent (m : Mode) (c : List Byte) (s : State) : State :=
  setRxMode m (setRxLen (capTake s.bufCap c).length (setRxBuf (filledCells (capTake s.bufCap c))
    (setRxCrc (crc16 ((capTake s.bufCap c).take ((capTake s.bufCap c).length - 2)))
      (setRxOvf (!capFits s.bufCap c.length) s))))

section withContent
variable (m : Mode) (c : List Byte) (s : State)
@[simp] theorem withContent_bufCap : (withContent m c s).bufCap = s.bufCap := rfl
@[simp] theorem withContent_rxMode : (withContent m c s).rxMode = m := rfl
@[simp] theorem withContent_rxLen : (withContent m c s).rxLen = (capTake s.bufCap c).length := rfl
@[simp] theorem withContent_rxBuf : (withContent m c s).rxBuf = filledCells (capTake s.bufCap c) := rfl
@[simp] theorem withContent_rxCrc :
    (withContent m c s).rxCrc = crc16 ((capTake s.bufCap c).take ((capTake s.bufCap c).length - 2)) := rfl
@[simp] theorem withContent_rxOvf : (withContent m c s).rxOvf = !capFits s.bufCap c.length := rfl
@[simp] theorem withContent_evtOut : (withContent m c s).evtOut = s.evtOut := rfl

theorem bufferFull_withContent :
    bufferFull (withContent m c s) = capFull s.bufCap (capTake s.bufCap c).length := rfl

@[simp] theorem setRxMode_withContent (m' : Mode) : setRxMode m' (withContent m c s) = withContent m' c s := rfl

@[simp] theorem content_withContent : content (withContent m c s) = capTake s.bufCap c :=
  memBytes_filledCells _

theorem withContent_bufferOk : BufferOk (withContent m c s) :=
  ⟨holds_filledCells _, capFits_length_capTake _ _⟩
end withContent

/-- A re-open leaves an open frame of no content (R159). -/
theorem clearRx_eq_withContent (m : Mode) (s : State) : clearRx m s = withContent m [] s := by
  refine state_ext rfl rfl ?_ ?_ ?_ ?_ rfl rfl rfl rfl rfl rfl
  · simp
  · simp [filledCells]
  · simp [crc16]
  · simp

/-- The next frame takes over nothing of the content of the last. (With `s` taken apart `rfl` compares field by field and
never evaluates a CRC.) -/
theorem clearRx_withContent (m m' : Mode) (c : List Byte) (s : State) :
    clearRx m' (withContent m c s) = withContent m' [] s := by
  rw [← clearRx_eq_withContent]
  cases s
  rfl

/-! ## One content byte -/

/-- The running CRC over all but the last two bytes moves by the last but one when a byte is appended. -/
theorem crc16_take_concat {c : List Byte} (h : 2 ≤ c.length) (v : Byte) :
    crc16 ((c ++ [v]).take ((c ++ [v]).length - 2)) =
      crc16Step (crc16 (c.take (c.length - 2))) (c.getD (c.length - 2) 0#8) := by
  have hlt : c.length - 2 < c.length := by omega
  have hlen : (c ++ [v]).length - 2 = c.length - 2 + 1 := by simp; omega
  rw [hlen, List.take_append_of_le_length hlt, List.take_succ_eq_append_getElem hlt, crc16_concat,
    List.getD_eq_getElem _ _ hlt]

theorem crcAfterAppend_withContent {m : Mode} {c : List Byte} {s : State} (h : capFits s.bufCap c.length = true)
    (v : Byte) : crcAfterAppend (withContent m c s) = crc16 ((c ++ [v]).take ((c ++ [v]).length - 2)) := by
  simp only [crcAfterAppend, withContent_rxLen, withContent_rxCrc, content_withContent, capTake_of_fits h]
  split_ifs with h2
  · exact (crc16_take_concat h2 v).symm
  · have h0 : c.length - 2 = 0 ∧ (c ++ [v]).length - 2 = 0 := by simp; omega
    rw [h0.1, h0.2, List.take_zero, List.take_zero]

/-- An append takes the byte into the content, stored or dropped (R158). -/
theorem appendByte_withContent (m : Mode) (c : List Byte) (s : State) (v : Byte) :
    appendByte v (withContent m c s) = .ok (withContent m (c ++ [v]) s) := by
  have hlen : (c ++ [v]).length = c.length + 1 := List.length_append
  cases hf : capFull s.bufCap (capTake s.bufCap c).length with
  | true =>
    have hsame := capTake_concat_of_full v hf
    have hlost := hlen ▸ capFits_succ_of_full hf
    rw [appendByte_full (bufferFull_withContent m c s ▸ hf)]
    simp only [withContent, hsame, hlost, Bool.not_false]
    rfl
  | false =>
    have hroom := hlen ▸ capFits_succ_of_not_full hf
    have hfits := capFits_of_succ (hlen ▸ hroom)
    have hold : capTake s.bufCap c = c := capTake_of_fits hfits
    have hnew : capTake s.bufCap (c ++ [v]) = c ++ [v] := capTake_of_fits hroom
    rw [appendByte_room (withContent_bufferOk m c s) hf, crcAfterAppend_withContent hfits v, withContent_rxLen,
      withContent_rxBuf, hold, memInsert_filledCells, ← hlen]
    simp only [withContent, hnew, hfits, hroom]
    rfl

/-! ## One wire byte -/

theorem exec_rxbyte_flag (s : State) : exec (.rxbyte flagByte) s = settle (wireFlag s) := rfl

theorem exec_rxbyte_esc (s : State) : exec (.rxbyte escByte) s = settle (wireEsc s) := rfl

theorem exec_rxbyte_data {b : Byte} (hflag : b ≠ flagByte) (hesc : b ≠ escByte) (s : State) :
    exec (.rxbyte b) s = settle (wireData b s) := by
  simp [exec, execRxbyte, rxClass, hflag, hesc]

/-- After the escape byte every byte but the flag, the escape byte included, is stored transformed (R157). -/
theorem exec_rxbyte_of_unescaping {b : Byte} {s : State} (hflag : b ≠ flagByte) (hm : s.rxMode = .unescaping) :
    exec (.rxbyte b) s = settle (storeUnescaped b s) := by
  by_cases hesc : b = escByte
  · rw [hesc, exec_rxbyte_esc, wireEsc, hm]
  · rw [exec_rxbyte_data hflag hesc, wireData, hm]

theorem exec_rxbyte_data_withContent {b : Byte} (hflag : b ≠ flagByte) (hesc : b ≠ escByte) (c : List Byte)
    (s : State) : exec (.rxbyte b) (withContent .started c s) = .next (withContent .started (c ++ [b]) s) := by
  rw [exec_rxbyte_data hflag hesc, wireData, withContent_rxMode, appendByte_withContent, settle_ok]

theorem exec_rxbyte_esc_withContent (c : List Byte) (s : State) :
    exec (.rxbyte escByte) (withContent .started c s) = .next (withContent .unescaping c s) := rfl

theorem exec_rxbyte_escaped_withContent {b : Byte} (hflag : b ≠ flagByte) (c : List Byte) (s : State) :
    exec (.rxbyte b) (withContent .unescaping c s) =
      .next (withContent .started (c ++ [escapeTransform b]) s) := by
  rw [exec_rxbyte_of_unescaping hflag (withContent_rxMode _ _ _), storeUnescaped, appendByte_withContent]
  rfl

/-! ## A flag -/

/-- A frame boundary reports of an open frame what the closed form says of its content (R172). -/
theorem verdict_withContent (m : Mode) (c : List Byte) (s : State) :
    verdict (withContent m c s) = classify s.bufCap c := by
  cases hfits : capFits s.bufCap c.length with
  | false => simp [verdict, classify, hfits]
  | true =>
    have hfcs : ∀ bs, finishCrc (crc16 bs) = fcs16 bs := fun _ => rfl
    simp [verdict, classify, hfits, capTake_of_fits hfits, hfcs]

@[simp] theorem report_evtOut (e : Option Event) (s : State) : (report e s).evtOut = s.evtOut ++ e.toList := by
  cases e <;> simp [report]

theorem report_withContent (m : Mode) (c : List Byte) (e : Option Event) (s : State) :
    report e (withContent m c s) = withContent m c (report e s) := by
  cases e with
  | none => rfl
  | some x => rfl

/-- A flag judges the content of the open frame and opens the next, empty one (R154, R156). -/
theorem exec_rxbyte_flag_withContent {m : Mode} (hm : m ≠ .notStarted) (c : List Byte) (s : State) :
    exec (.rxbyte flagByte) (withContent m c s) =
      .next (withContent .started [] (report (classify s.bufCap c) s)) := by
  have hb : wireFlag (withContent m c s) = frameBoundary (withContent m c s) := by
    cases m with
    | notStarted => exact absurd rfl hm
    | started | unescaping => rfl
  rw [exec_rxbyte_flag, hb, frameBoundary_eq (withContent_bufferOk m c s), verdict_withContent,
    report_withContent,
    clearRx_withContent, settle_ok]

/-! ## Stuffed content -/

theorem ne_flagByte_of_mem_escapedForms {v : Byte} (h : v ∈ escapedForms) : v ≠ flagByte := fun hflag =>
  notMem_escapeSet_of_mem_escapedForms h (hflag ▸ by decide)

/-- The wire form of one content byte is taken in as that byte. -/
theorem execAll_rxchunkOps_stuff (b : Byte) (c : List Byte) (s : State) :
    execAll (rxchunkOps (stuff b)) (withContent .started c s) = .next (withContent .started (c ++ [b]) s) := by
  by_cases hb : b ∈ escapeSet
  · have hflag := ne_flagByte_of_mem_escapedForms (escapeTransform_mem_escapedForms hb)
    have hpair : rxchunkOps (stuff b) = [.rxbyte escByte, .rxbyte (escapeTransform b)] := by
      rw [stuff_of_mem hb]
      rfl
    rw [hpair, execAll_cons_next (exec_rxbyte_esc_withContent c s),
      execAll_cons_next (exec_rxbyte_escaped_withContent hflag c s), escapeTransform_escapeTransform, execAll_nil]
  · have hflag : b ≠ flagByte := fun h => hb (h ▸ by decide)
    have hesc : b ≠ escByte := fun h => hb (h ▸ by decide)
    have hlit : rxchunkOps (stuff b) = [.rxbyte b] := by
      rw [stuff_of_notMem hb]
      rfl
    rw [hlit, execAll_cons_next (exec_rxbyte_data_withContent hflag hesc c s), execAll_nil]

theorem rxchunkOps_append (a b : List Byte) : rxchunkOps (a ++ b) = rxchunkOps a ++ rxchunkOps b := List.map_append

/-- The receiver takes in what was stuffed. -/
theorem execAll_rxchunkOps_stuffSeq (d c : List Byte) (s : State) :
    execAll (rxchunkOps (stuffSeq d)) (withContent .started c s) = .next (withContent .started (c ++ d) s) := by
  induction d generalizing c with
  | nil => rw [List.append_nil]; rfl
  | cons b d ih =>
    rw [stuffSeq_cons, rxchunkOps_append, execAll_append_next (execAll_rxchunkOps_stuff b c s), ih,
      List.append_assoc, List.singleton_append]

/-! ## The round trip -/

/-- The first flag opens an empty frame (R151). -/
theorem exec_rxbyte_flag_of_notStarted {s : State} (h : s.rxMode = .notStarted) :
    exec (.rxbyte flagByte) s = .next (withContent .started [] s) := by
  rw [exec_rxbyte_flag, wireFlag, h, ← clearRx_eq_withContent]
  rfl

/-- DECODE of one encoded frame judges its content: payload and FCS. -/
theorem execAll_decodeOps_encodeFrame (p : List Byte) (s : State) :
    execAll (decodeOps (encodeFrame p)) s =
      .next (withContent .started []
        (report (classify s.bufCap (p ++ fcsBytes p)) (clearRx .notStarted s))) := by
  have hops : decodeOps (encodeFrame p) =
      .rxreset :: .rxbyte flagByte :: (rxchunkOps (stuffSeq (p ++ fcsBytes p)) ++ [.rxbyte flagByte]) := by
    simp [decodeOps, encodeFrame, rxchunkOps]
  have hreset : exec .rxreset s = .next (clearRx .notStarted s) := rfl
  rw [hops, execAll_cons_next hreset, execAll_cons_next (exec_rxbyte_flag_of_notStarted rfl),
    execAll_append_next (execAll_rxchunkOps_stuffSeq (p ++ fcsBytes p) [] _),
    execAll_cons_next (exec_rxbyte_flag_withContent (by decide) _ _), execAll_nil, List.nil_append, clearRx_bufCap]

theorem joinFcs_highByte_lowByte (w : Word16) : joinFcs (highByte w) (lowByte w) = w := by
  apply BitVec.eq_of_getLsbD_eq
  intro i hi
  simp only [joinFcs, highByte, lowByte, BitVec.getLsbD_append, BitVec.getLsbD_extractLsb']
  by_cases h8 : i < 8
  · simp [h8]
  · simp [h8, show i - 8 < 8 by omega, show 8 + (i - 8) = i by omega]

/-- The FCS a receiver reads behind a payload is the one that was sent (20_memory.md R54). -/
theorem receivedFcs_append_fcsBytes (p : List Byte) : receivedFcs (p ++ fcsBytes p) = fcs16 p := by
  rw [← joinFcs_highByte_lowByte (fcs16 p)]
  simp [receivedFcs, fcsBytes, List.getD_eq_getElem?_getD]

/-- A payload with its own FCS is a valid frame wherever it fits. -/
theorem classify_append_fcsBytes (cap : BufCap) (p : List Byte) :
    classify cap (p ++ fcsBytes p) =
      some (if capFits cap (p.length + 2) then .frame p else .errOverflow) := by
  have hlen : (p ++ fcsBytes p).length = p.length + 2 := List.length_append
  cases hfits : capFits cap (p.length + 2) with
  | false => simp [classify, hlen, hfits]
  | true => simp [classify, hlen, hfits, receivedFcs_append_fcsBytes]

/-- Settles O43: `ENCODE` emits the closed form of the frame, `DECODE` judges the content stuffed in it, and that is a
payload with its own FCS (`classify_append_fcsBytes`). -/
theorem roundTripDeliversPayload : Obligations.RoundTripDeliversPayload := by
  intro p s hs _
  refine ⟨_, encodeFrame p, _, execAll_encodeOps hs p, rfl, execAll_decodeOps_encodeFrame p _, ?_⟩
  simp [classify_append_fcsBytes]

end Sys2Proof.Machine
end

section
/-! RXBYTE by the mode it finds (43_rx_decoder.md R150 to R156, R160 to R164): no frame open, the escape byte in an open
frame, the flag that closes one, and from these O29, O30 and O34. -/

namespace Sys2Proof.Machine

open Sys2Proof.Safety

/-- A tuple of code 0x6 is RXBYTE of its byte, whatever its crc field (30_encoding.md R82). -/
theorem decode_rxbyte_tuple (crc : Word16) (b : Byte) :
    decode (.command (makeTuple 0x6#4 crc b)) = .ok (.rxbyte b) := by
  simp [decode, decodeTuple]

/-! ## No frame open, and the escape byte -/

/-- Before the first flag every other byte, the escape byte included, is discarded (R152). -/
theorem exec_rxbyte_discarded {b : Byte} {s : State} (hflag : b ≠ flagByte) (hm : s.rxMode = .notStarted) :
    exec (.rxbyte b) s = .next s := by
  by_cases hesc : b = escByte
  · rw [hesc, exec_rxbyte_esc, wireEsc, hm, settle_ok]
  · rw [exec_rxbyte_data hflag hesc, wireData, hm, settle_ok]

/-- Settles O29: the word of code 0x6, the flag by its column of R150's table, and `exec_rxbyte_discarded`. -/
theorem bytesBeforeFirstFlagAreDiscarded : Obligations.BytesBeforeFirstFlagAreDiscarded := by
  refine fun crc b s hm => ⟨decode_rxbyte_tuple crc b, ?_, fun hflag => exec_rxbyte_discarded hflag hm⟩
  rw [exec_rxbyte_flag, wireFlag, hm]
  rfl

/-- Settles O30: the escape byte's column of R150's table in Started. -/
theorem escapeByteArmsUnescaping : Obligations.EscapeByteArmsUnescaping := by
  intro s hm
  rw [exec_rxbyte_esc, wireEsc, hm]
  rfl

/-! ## The flag in an open frame -/

/-- With a frame open a flag reports the verdict on it and re-opens (R154, R156). -/
theorem exec_rxbyte_flag_of_open {s : State} (hb : BufferOk s) (hm : s.rxMode = .started ∨ s.rxMode = .unescaping) :
    exec (.rxbyte flagByte) s = .next (clearRx .started (report (verdict s) s)) := by
  have hboundary : wireFlag s = frameBoundary s := by
    obtain hm | hm := hm
    · rw [wireFlag, hm]
    · rw [wireFlag, hm]
  rw [exec_rxbyte_flag, hboundary, frameBoundary_eq hb, settle_ok]

theorem report_eq_update (e : Option Event) (s : State) : report e s = { s with evtOut := s.evtOut ++ e.toList } := by
  cases e with
  | none => exact state_ext rfl rfl rfl rfl rfl rfl rfl rfl rfl (List.append_nil _).symm rfl rfl
  | some x => rfl

/-- The received FCS of a filled buffer: its last byte above its last but one. -/
theorem receivedFcs_content {s : State} (hb : BufferOk s) :
    receivedFcs (content s) = (content s).getD (s.rxLen - 1) 0#8 ++ (content s).getD (s.rxLen - 2) 0#8 := by
  rw [receivedFcs, content_length hb, joinFcs]

/-- Where the invariants hold the recomputed FCS of an open frame is that of all bytes but the last two (10_state.md
R32, invariant 3). -/
theorem finishCrc_rxCrc_of_invariants {s : State} (hi : Invariants s) (hm : s.rxMode ≠ .notStarted)
    (hovf : s.rxOvf = false) : finishCrc s.rxCrc = fcs16 ((content s).take (s.rxLen - 2)) := by
  rw [hi.lag hm hovf, fcs16]

/-- Settles O34: the flag reports the verdict and re-opens (`exec_rxbyte_flag_of_open`), and without an overflow the
verdict is the length test and then the comparison of R160. -/
theorem flagJudgesOpenFrame : Obligations.FlagJudgesOpenFrame := by
  intro s hb hm hovf
  have hopen : s.rxMode ≠ .notStarted := by
    obtain hm | hm := hm <;> simp [hm]
  refine ⟨fun hi => finishCrc_rxCrc_of_invariants hi hopen hovf, ?_⟩
  have hverdict : (verdict s).toList =
      if s.rxLen < 2 then []
      else if s.rxCrc ^^^ 0xFFFF#16 = receivedFcs (content s) then [.frame ((content s).take (s.rxLen - 2))]
      else [.errGarbage (s.rxCrc ^^^ 0xFFFF#16) (receivedFcs (content s))] := by
    rw [verdict, if_neg (by simp [hovf]), finishCrc]
    split_ifs <;> rfl
  rw [exec_rxbyte_flag_of_open hb hm, report_eq_update, hverdict, receivedFcs_content hb]
  rfl

end Sys2Proof.Machine
end

section
/-! The CRC step as eight turns of the loop of 40_crc.md R102, from that the injectivity of the CRC in each byte, and the
residue a payload with its own FCS leaves (R107). -/

namespace Sys2Proof.Machine

/-! ## The loop -/

theorem crcLoop_succ (n : Nat) (c : Word16) : crcLoop (n + 1) c = crcLoop n (crcShift c) := rfl

theorem crcShift_of_even {c : Word16} (h : c.getLsbD 0 = false) : crcShift c = c >>> 1 :=
  if_neg (ne_true_of_eq_false h)

theorem crcShift_of_odd {c : Word16} (h : c.getLsbD 0 = true) : crcShift c = (c >>> 1) ^^^ crcPoly := if_pos h

/-- One turn is linear over exclusive or. -/
theorem crcShift_xor (c d : Word16) : crcShift (c ^^^ d) = crcShift c ^^^ crcShift d := by
  simp only [crcShift, BitVec.getLsbD_xor, BitVec.ushiftRight_xor_distrib]
  cases c.getLsbD 0 with
  | false =>
    cases d.getLsbD 0 with
    | false => rfl
    | true => exact BitVec.xor_assoc ..
  | true =>
    cases d.getLsbD 0 with
    | false => simp [BitVec.xor_assoc, BitVec.xor_comm crcPoly]
    | true => simp [BitVec.xor_assoc, BitVec.xor_comm crcPoly]

theorem crcLoop_xor (n : Nat) (c d : Word16) : crcLoop n (c ^^^ d) = crcLoop n c ^^^ crcLoop n d := by
  induction n generalizing c d with
  | zero => rfl
  | succ n ih => rw [crcLoop_succ, crcShift_xor, ih, ← crcLoop_succ, ← crcLoop_succ]

/-- While the bits shifted out are 0 the loop only shifts. -/
theorem crcLoop_of_low_bits_zero {n : Nat} {c : Word16} (h : ∀ i < n, c.getLsbD i = false) :
    crcLoop n c = c >>> n := by
  induction n generalizing c with
  | zero => exact (BitVec.ushiftRight_zero c).symm
  | succ n ih =>
    have hlow : ∀ i < n, (c >>> 1).getLsbD i = false := fun i hi => by
      rw [BitVec.getLsbD_ushiftRight, h (1 + i) (by omega)]
    rw [crcLoop_succ, crcShift_of_even (h 0 (by omega)), ih hlow, ← BitVec.shiftRight_add, Nat.add_comm]

/-- The top bit after a turn is the bit shifted out, since only the polynomial reaches it. -/
theorem getLsbD_15_crcShift (c : Word16) : (crcShift c).getLsbD 15 = c.getLsbD 0 := by
  have hin : (c >>> 1).getLsbD 15 = false := by
    rw [BitVec.getLsbD_ushiftRight, BitVec.getLsbD_of_ge c _ (by decide)]
  cases hout : c.getLsbD 0 with
  | false => rw [crcShift_of_even hout, hin]
  | true =>
    rw [crcShift_of_odd hout, BitVec.getLsbD_xor, hin]
    rfl

/-- A turn can be undone: the top bit says whether the polynomial came in. -/
theorem crcShift_injective : Function.Injective crcShift := by
  intro c d h
  have hbit : c.getLsbD 0 = d.getLsbD 0 := by
    rw [← getLsbD_15_crcShift, h, getLsbD_15_crcShift]
  have hrest : c >>> 1 = d >>> 1 := by
    cases hd : d.getLsbD 0 with
    | false => rwa [crcShift_of_even hd, crcShift_of_even (hbit.trans hd)] at h
    | true =>
      rw [crcShift_of_odd hd, crcShift_of_odd (hbit.trans hd)] at h
      exact (BitVec.xor_left_inj _).1 h
  apply BitVec.eq_of_getLsbD_eq
  intro i hi
  cases i with
  | zero => exact hbit
  | succ i => simpa [Nat.add_comm] using congrArg (BitVec.getLsbD · i) hrest

theorem crcLoop_injective (n : Nat) : Function.Injective (crcLoop n) := by
  induction n with
  | zero => exact Function.injective_id
  | succ n ih => exact ih.comp crcShift_injective

/-! ## The table -/

/-- The table of R101 is the loop's output on each index. -/
theorem crcTable_eq_map_crcLoop : crcTable = (List.range 256).map fun i => crcLoop 8 (BitVec.ofNat 16 i) := by
  decide +kernel

theorem crcEntry_eq_crcLoop (i : Byte) : crcEntry i = crcLoop 8 (i.setWidth 16) := by
  have hi : i.toNat < 256 := i.isLt
  simp [crcEntry, crcTable_eq_map_crcLoop, List.getD_eq_getElem?_getD, hi]

/-- The accumulator with the byte folded in is the table index below the accumulator's high byte. -/
theorem xor_setWidth_eq_crcIndex (c : Word16) (b : Byte) :
    c ^^^ b.setWidth 16 = (crcIndex c b).setWidth 16 ^^^ (c >>> 8) <<< 8 := by
  apply BitVec.eq_of_getLsbD_eq
  intro i hi
  by_cases h8 : i < 8
  · simp [crcIndex, h8, hi]
  · simp [crcIndex, h8, hi, show 8 + (i - 8) = i by omega, Bool.xor_comm]

/-- The table form of the CRC step is the bit-serial form (R102). -/
theorem crc16Step_eq_crcLoop (c : Word16) (b : Byte) : crc16Step c b = crcLoop 8 (c ^^^ b.setWidth 16) := by
  have hhigh : crcLoop 8 ((c >>> 8) <<< 8) = c >>> 8 := by
    rw [crcLoop_of_low_bits_zero fun i hi => by simp [hi]]
    apply BitVec.eq_of_getLsbD_eq
    intro i hi
    simpa using fun h => BitVec.lt_of_getLsbD h
  rw [xor_setWidth_eq_crcIndex, crcLoop_xor, hhigh, ← crcEntry_eq_crcLoop, crc16Step]

/-! ## One byte damaged -/

theorem crc16Step_left_injective (b : Byte) : Function.Injective (crc16Step · b) := by
  intro c d h
  simp only [crc16Step_eq_crcLoop] at h
  exact (BitVec.xor_left_inj _).1 (crcLoop_injective 8 h)

theorem crc16Step_right_injective (c : Word16) : Function.Injective (crc16Step c) := by
  intro x y h
  simp only [crc16Step_eq_crcLoop] at h
  have hwide := (BitVec.xor_right_inj _).1 (crcLoop_injective 8 h)
  simpa using congrArg (BitVec.setWidth 8) hwide

theorem crcFrom_left_injective (bs : List Byte) : Function.Injective (crcFrom · bs) := by
  induction bs with
  | nil => exact Function.injective_id
  | cons b bs ih => exact ih.comp (crc16Step_left_injective b)

/-- Contents that differ in one byte have different CRCs. -/
theorem byte_eq_of_crc16_eq {a b : List Byte} {x y : Byte} (h : crc16 (a ++ x :: b) = crc16 (a ++ y :: b)) : x = y := by
  simp only [crc16, crcFrom_append, crcFrom_cons] at h
  exact crc16Step_right_injective _ (crcFrom_left_injective b h)

/-! ## The residue -/

theorem crcIndex_eq (c : Word16) (b : Byte) : crcIndex c b = lowByte c ^^^ b := by
  apply BitVec.eq_of_getLsbD_eq
  intro i hi
  simp [crcIndex, lowByte, hi]

theorem lowByte_xor (c d : Word16) : lowByte (c ^^^ d) = lowByte c ^^^ lowByte d :=
  BitVec.extractLsb'_xor

theorem highByte_xor (c d : Word16) : highByte (c ^^^ d) = highByte c ^^^ highByte d :=
  BitVec.extractLsb'_xor

theorem lowByte_ushiftRight (c : Word16) : lowByte (c >>> 8) = highByte c := by
  apply BitVec.eq_of_getLsbD_eq
  intro i hi
  simp [lowByte, highByte, hi]

/-- From any accumulator the two bytes of its own FCS lead to the residue: the two steps read the table at 0xFF and
at 0x87, and nothing of the accumulator is left. -/
theorem crcFrom_own_fcs (c : Word16) :
    crcFrom c [lowByte (finishCrc c), highByte (finishCrc c)] = crcCheck := by
  have hfirst : crc16Step c (lowByte (finishCrc c)) = 0x0F78#16 ^^^ (c >>> 8) := by
    have hindex : crcIndex c (lowByte (finishCrc c)) = 0xFF#8 := by
      rw [crcIndex_eq, finishCrc, lowByte_xor, ← BitVec.xor_assoc, BitVec.xor_self, BitVec.zero_xor]
      rfl
    rw [crc16Step, hindex]
    rfl
  have hsecond : crcIndex (0x0F78#16 ^^^ (c >>> 8)) (highByte (finishCrc c)) = 0x87#8 := by
    rw [crcIndex_eq, finishCrc, lowByte_xor, lowByte_ushiftRight, highByte_xor, BitVec.xor_assoc,
      ← BitVec.xor_assoc (highByte c), BitVec.xor_self, BitVec.zero_xor]
    rfl
  rw [crcFrom_cons, crcFrom_cons, crcFrom_nil, hfirst, crc16Step, hsecond, BitVec.ushiftRight_xor_distrib,
    ← BitVec.shiftRight_add, BitVec.ushiftRight_eq_zero (le_refl 16), BitVec.xor_zero]
  rfl

/-- A payload followed by its own FCS leaves the residue (R107). -/
theorem crc16_append_fcsBytes (p : List Byte) : crc16 (p ++ fcsBytes p) = crcCheck := by
  rw [crc16, crcFrom_append]
  exact crcFrom_own_fcs (crc16 p)

end Sys2Proof.Machine
end

section
/-! One byte damaged in an escape pair (43_rx_decoder.md R170): the content that then arrives, why it is no valid frame,
and from that O59. -/

namespace Sys2Proof.Machine

/-! ## Damaged content -/

theorem lowByte_joinFcs (h l : Byte) : lowByte (joinFcs h l) = l := BitVec.extractLsb'_append_eq_right

theorem highByte_joinFcs (h l : Byte) : highByte (joinFcs h l) = h := BitVec.extractLsb'_append_eq_left

/-- A content whose received FCS is that of the bytes before it is those bytes with their own FCS. -/
theorem eq_append_fcsBytes_of_valid {c : List Byte} (hlen : 2 ≤ c.length)
    (hvalid : fcs16 (c.take (c.length - 2)) = receivedFcs c) :
    c = c.take (c.length - 2) ++ fcsBytes (c.take (c.length - 2)) := by
  have hlast : c.drop (c.length - 2) = [c.getD (c.length - 2) 0#8, c.getD (c.length - 1) 0#8] := by
    rw [List.drop_eq_getElem_cons (by omega), List.drop_eq_getElem_cons (by omega), List.drop_of_length_le (by omega),
      List.getD_eq_getElem _ _ (by omega), List.getD_eq_getElem _ _ (by omega)]
    simp only [show c.length - 2 + 1 = c.length - 1 by omega]
  have hfcs : fcsBytes (c.take (c.length - 2)) = c.drop (c.length - 2) := by
    rw [fcsBytes, hvalid, receivedFcs, lowByte_joinFcs, highByte_joinFcs, hlast]
  rw [hfcs, List.take_append_drop]

/-- A content that fits and does not leave the residue is garbage. -/
theorem classify_eq_errGarbage {cap : BufCap} {c : List Byte} (hfits : capFits cap c.length = true)
    (hlen : 2 ≤ c.length) (hresidue : crc16 c ≠ crcCheck) : ∃ f r, classify cap c = some (.errGarbage f r) := by
  have hinvalid : fcs16 (c.take (c.length - 2)) ≠ receivedFcs c := fun hvalid =>
    hresidue (eq_append_fcsBytes_of_valid hlen hvalid ▸ crc16_append_fcsBytes _)
  exact ⟨_, _, by rw [classify, hfits, if_neg (by simp), if_neg (by omega), if_neg hinvalid]⟩

/-- A frame with one content byte damaged is garbage: the damage moves the CRC off the residue the frame was sent with. -/
theorem classify_damaged {cap : BufCap} {p a b : List Byte} {x y : Byte} (hfits : capFits cap (p.length + 2) = true)
    (hsent : p ++ fcsBytes p = a ++ x :: b) (hxy : x ≠ y) :
    ∃ f r, classify cap (a ++ y :: b) = some (.errGarbage f r) := by
  have hlen : (a ++ y :: b).length = p.length + 2 :=
    calc (a ++ y :: b).length
      _ = (a ++ x :: b).length := by simp
      _ = p.length + 2 := by rw [← hsent, List.length_append]; rfl
  refine classify_eq_errGarbage (hlen ▸ hfits) (by omega) fun hresidue => hxy (byte_eq_of_crc16_eq (a := a) (b := b) ?_)
  rw [← hsent, crc16_append_fcsBytes, hresidue]

/-! ## Damaged wire bytes -/

/-- In the wire form of one content byte the escape byte only opens its pair. -/
theorem stuff_eq_append_escByte {b : Byte} {pre rest : List Byte} (h : stuff b = pre ++ escByte :: rest) :
    pre = [] ∧ rest = [escapeTransform b] := by
  by_cases hb : b ∈ escapeSet
  · rw [stuff_of_mem hb] at h
    match pre with
    | [] => exact ⟨rfl, (List.cons.inj h).2.symm⟩
    | [_] =>
      have hesc : escapeTransform b = escByte := (List.cons.inj (List.cons.inj h).2).1
      exact absurd (hesc ▸ escapeTransform_mem_escapedForms hb) (by decide)
    | _ :: _ :: _ => simp at h
  · rw [stuff_of_notMem hb] at h
    match pre with
    | [] => exact absurd (show b ∈ escapeSet from (List.cons.inj h).1 ▸ by decide) hb
    | _ :: _ => simp at h

/-- An escape byte in stuffed content starts the pair of one content byte, between the stuffed bytes before it and
after it. -/
theorem stuffSeq_split_at_escByte {c pre post : List Byte} {v : Byte} (h : stuffSeq c = pre ++ escByte :: v :: post) :
    ∃ a b d, c = a ++ b :: d ∧ pre = stuffSeq a ∧ v = escapeTransform b ∧ post = stuffSeq d := by
  induction c generalizing pre with
  | nil => simp at h
  | cons b c ih =>
    rw [stuffSeq_cons] at h
    obtain ⟨pre, rfl, hc⟩ | ⟨rest, hb, hc⟩ := List.append_eq_append_iff.1 h
    · obtain ⟨a, x, d, rfl, rfl, hv, hpost⟩ := ih hc
      exact ⟨b :: a, x, d, rfl, rfl, hv, hpost⟩
    · cases rest with
      | nil =>
        obtain ⟨a, x, d, rfl, ha, hv, hpost⟩ := ih (pre := []) hc.symm
        exact ⟨b :: a, x, d, rfl, by simpa [← ha] using hb.symm, hv, hpost⟩
      | cons w rest =>
        obtain ⟨rfl, htail⟩ := List.cons.inj hc
        obtain ⟨rfl, rfl⟩ := stuff_eq_append_escByte hb
        obtain ⟨hv, hpost⟩ := List.cons.inj htail
        exact ⟨[], b, c, rfl, rfl, hv, hpost⟩

/-- After the escape byte any byte but the flag is taken in transformed. -/
theorem execAll_rxchunkOps_pair {v : Byte} (hflag : v ≠ flagByte) (c : List Byte) (s : State) :
    execAll (rxchunkOps [escByte, v]) (withContent .started c s) =
      .next (withContent .started (c ++ [escapeTransform v]) s) := by
  have hops : rxchunkOps [escByte, v] = [.rxbyte escByte, .rxbyte v] := rfl
  rw [hops, execAll_cons_next (exec_rxbyte_esc_withContent c s),
    execAll_cons_next (exec_rxbyte_escaped_withContent hflag c s), execAll_nil]

/-- A pair between stuffed bytes is taken in as one content byte between theirs, whatever the pair became on the wire. -/
theorem execAll_rxchunkOps_stuffed_around_pair {v : Byte} (hflag : v ≠ flagByte) (a d : List Byte) (s : State) :
    execAll (rxchunkOps (stuffSeq a ++ escByte :: v :: stuffSeq d)) (withContent .started [] s) =
      .next (withContent .started (a ++ escapeTransform v :: d) s) := by
  have hsplit : stuffSeq a ++ escByte :: v :: stuffSeq d = stuffSeq a ++ ([escByte, v] ++ stuffSeq d) := rfl
  rw [hsplit, rxchunkOps_append, rxchunkOps_append, execAll_append_next (execAll_rxchunkOps_stuffSeq a [] s),
    execAll_append_next (execAll_rxchunkOps_pair hflag _ s), execAll_rxchunkOps_stuffSeq]
  simp

/-- DECODE of wire bytes between two flags judges the content they are taken in as. -/
theorem execAll_decodeOps_between_flags {ws c : List Byte}
    (h : ∀ s, execAll (rxchunkOps ws) (withContent .started [] s) = .next (withContent .started c s)) (s : State) :
    execAll (decodeOps (flagByte :: ws ++ [flagByte])) s =
      .next (withContent .started [] (report (classify s.bufCap c) (clearRx .notStarted s))) := by
  have hops : decodeOps (flagByte :: ws ++ [flagByte]) =
      .rxreset :: .rxbyte flagByte :: (rxchunkOps ws ++ [.rxbyte flagByte]) := by
    simp [decodeOps, rxchunkOps]
  have hreset : exec .rxreset s = .next (clearRx .notStarted s) := rfl
  rw [hops, execAll_cons_next hreset, execAll_cons_next (exec_rxbyte_flag_of_notStarted rfl),
    execAll_append_next (h _), execAll_cons_next (exec_rxbyte_flag_withContent (by decide) _ _), execAll_nil,
    clearRx_bufCap]

/-- Settles O59: the pair stands for one content byte 7D (`stuffSeq_split_at_escByte`) and is damaged into a pair for 5D,
so that one content byte is wrong and the frame is garbage (`classify_damaged`). -/
theorem flipOfEscapedEscapeIsGarbage : Obligations.FlipOfEscapedEscapeIsGarbage := by
  intro p pre post s hfits hframe
  have hstuffed : stuffSeq (p ++ fcsBytes p) = pre ++ escByte :: 0x5D#8 :: post :=
    List.append_cancel_right (List.cons.inj hframe).2
  obtain ⟨a, b, d, hsent, rfl, hb, rfl⟩ := stuffSeq_split_at_escByte hstuffed
  have hdamage : b ≠ escapeTransform escByte := fun h => absurd (h ▸ hb) (by decide)
  obtain ⟨f, r, hgarbage⟩ := classify_damaged (y := escapeTransform escByte) hfits hsent hdamage
  have htaken := execAll_rxchunkOps_stuffed_around_pair (v := escByte) (by decide) a d
  exact ⟨_, f, r, execAll_decodeOps_between_flags htaken s, by simp [hgarbage]⟩

end Sys2Proof.Machine
end

section
/-! Words and instructions: the command tuples, wire bytes and content bytes that stand for an instruction (30_encoding.md
R72, R75, R81, R82), the rows the matching rule finds for them (R87), and from these O1, O2, O3, O4 and O6. -/

namespace Sys2Proof

open Sys2Proof.Machine

/-! ## Command tuples -/

theorem and_fullMask (w : Tuple) : w &&& 0xFFFFFFF#28 = w := BitVec.and_allOnes

/-- The instruction of a tuple has as its own word the bits of the tuple that it looks at. -/
theorem encode_of_decodeTuple {w : Tuple} {i : Instr} (h : decodeTuple w = .ok i) :
    encode i = .command (w &&& usedMask i) := by
  have hop : ∀ op : BitVec 4, (tupleOp w).toNat = op.toNat → tupleOp w = op := fun _ => BitVec.eq_of_toNat_eq
  unfold decodeTuple at h
  split at h
  case h_1 hk =>
    cases h
    rw [encode, usedMask, and_fullMask, ← hop 1#4 hk, makeTuple_fields]
  case h_2 hk => cases h; rw [encode, usedMask, and_opByteMask, hop 2#4 hk]
  case h_3 hk => cases h; rw [encode, usedMask, and_opMask, hop 3#4 hk]
  case h_4 hk => cases h; rw [encode, usedMask, and_opByteMask, hop 4#4 hk]
  case h_5 hk => cases h; rw [encode, usedMask, and_opMask, hop 5#4 hk]
  case h_6 hk => cases h; rw [encode, usedMask, and_opByteMask, hop 6#4 hk]
  case h_7 hk => cases h; rw [encode, usedMask, and_opMask, hop 7#4 hk]
  case h_8 => cases h

theorem wf_of_decodeTuple {w : Tuple} {i : Instr} (h : decodeTuple w = .ok i) : i.wf = true := by
  have hword := encode_of_decodeTuple h
  cases i with
  | rxData | txLit => cases hword
  | _ => rfl

/-- Tuples agree under 0xF0000FF exactly when their op and byte fields agree. -/
theorem and_opByteMask_eq_iff (w : Tuple) (op : BitVec 4) (b : Byte) :
    w &&& 0xF0000FF#28 = makeTuple op 0#16 b ↔ tupleOp w = op ∧ tupleByte w = b := by
  rw [and_opByteMask]
  constructor
  · intro h
    exact ⟨by simpa using congrArg tupleOp h, by simpa using congrArg tupleByte h⟩
  · rintro ⟨rfl, rfl⟩
    rfl

theorem decode_crcstep_tuple (crc : Word16) (b : Byte) :
    decode (.command (makeTuple 0x1#4 crc b)) = .ok (.crcstep crc b) := by
  simp [decode, decodeTuple]

/-- A tuple of code 0x7 is RXRESET, whatever its other fields. -/
theorem decode_rxreset_tuple (crc : Word16) (b : Byte) :
    decode (.command (makeTuple 0x7#4 crc b)) = .ok .rxreset := by
  simp [decode, decodeTuple]

/-- A tuple that has, where the instruction looks, the bits of the instruction's own word decodes to it. -/
theorem decode_command_of_encode {w : Tuple} {i : Instr} (h : encode i = .command (w &&& usedMask i)) :
    decode (.command w) = .ok i := by
  rw [← makeTuple_fields w]
  cases i with
  | crcstep crc b =>
    have hw : w = makeTuple 0x1#4 crc b := (and_fullMask w).symm.trans (PortWord.command.inj h).symm
    simpa [hw] using decode_crcstep_tuple crc b
  | needesc b =>
    obtain ⟨hop, hbyte⟩ := (and_opByteMask_eq_iff w _ _).1 (PortWord.command.inj h).symm
    simpa [hop, hbyte] using decode_needesc_tuple (tupleCrc w) b
  | txopen =>
    rw [(and_opMask_eq_iff w _).1 (PortWord.command.inj h).symm]
    exact decode_txopen_tuple _ _
  | txbyte b =>
    obtain ⟨hop, hbyte⟩ := (and_opByteMask_eq_iff w _ _).1 (PortWord.command.inj h).symm
    simpa [hop, hbyte] using decode_txbyte_tuple (tupleCrc w) b
  | txclose =>
    rw [(and_opMask_eq_iff w _).1 (PortWord.command.inj h).symm]
    exact decode_txclose_tuple _ _
  | rxbyte b =>
    obtain ⟨hop, hbyte⟩ := (and_opByteMask_eq_iff w _ _).1 (PortWord.command.inj h).symm
    simpa [hop, hbyte] using decode_rxbyte_tuple (tupleCrc w) b
  | rxreset =>
    rw [(and_opMask_eq_iff w _).1 (PortWord.command.inj h).symm]
    exact decode_rxreset_tuple _ _
  | rxFlag | rxEsc | rxData | txStuff7E | txStuff7D | txStuff11 | txStuff13 | txStuffF8 | txLit => cases h

/-! ## Wire bytes and content bytes -/

theorem decode_wire_data {b : Byte} (hflag : b ≠ flagByte) (hesc : b ≠ escByte) :
    decode (.wire b) = .ok (.rxData b) := by
  simp [decode, decodeWire, rxClass, hflag, hesc]

theorem decode_content_lit {b : Byte} (h : b ∉ escapeSet) : decode (.content b) = .ok (.txLit b) := by
  simp only [escapeSet, List.mem_cons, List.not_mem_nil, or_false, not_or] at h
  simp [decode, decodeContent, h]

/-- Settles O1: a command word by its code, a fixed byte by evaluation, and RX.DATA and TX.LIT because a well-formed one
holds no byte of another row. -/
theorem decodeEncodeReturnsInstruction : Obligations.DecodeEncodeReturnsInstruction := by
  intro i hwf
  cases i with
  | crcstep crc b => exact decode_crcstep_tuple crc b
  | needesc b => exact decode_needesc_tuple 0#16 b
  | txopen => exact decode_txopen_tuple 0#16 0#8
  | txbyte b => exact decode_txbyte_tuple 0#16 b
  | txclose => exact decode_txclose_tuple 0#16 0#8
  | rxbyte b => exact decode_rxbyte_tuple 0#16 b
  | rxreset => exact decode_rxreset_tuple 0#16 0#8
  | rxData b =>
    obtain ⟨hflag, hesc⟩ : b ≠ flagByte ∧ b ≠ escByte := by simpa [Instr.wf] using hwf
    exact decode_wire_data hflag hesc
  | txLit b =>
    have hlit : b ∉ escapeSet := fun hb => by simp [Instr.wf, needsEscape_iff.2 hb] at hwf
    exact decode_content_lit hlit
  | rxFlag | rxEsc | txStuff7E | txStuff7D | txStuff11 | txStuff13 | txStuffF8 => rfl

/-- Settles O4: two tuples that agree where the instruction looks share the instruction's own word. -/
theorem ignoredFieldsDoNotMatter : Obligations.IgnoredFieldsDoNotMatter := by
  intro v w i hv hagree
  exact decode_command_of_encode ((encode_of_decodeTuple hv).trans (congrArg PortWord.command hagree))

/-- An instruction of a byte format is well formed, has this byte as its own word and looks at all of it. -/
structure ByteInstr (word : PortWord) (i : Instr) : Prop where
  wf : i.wf = true
  encode : encode i = word
  usedMask : usedMask i = 0xFF#28

theorem decodeWire_byteInstr (b : Byte) : ByteInstr (.wire b) (decodeWire b) := by
  by_cases hflag : b = flagByte
  · subst hflag; exact ⟨rfl, rfl, rfl⟩
  by_cases hesc : b = escByte
  · subst hesc; exact ⟨rfl, rfl, rfl⟩
  rw [Except.ok.inj (decode_wire_data hflag hesc)]
  exact ⟨by simp [Instr.wf, hflag, hesc], rfl, rfl⟩

theorem decodeContent_byteInstr (b : Byte) : ByteInstr (.content b) (decodeContent b) := by
  by_cases hb : b ∈ escapeSet
  · have hrows : ∀ r ∈ escapeSet, ByteInstr (.content r) (decodeContent r) := by
      simp only [escapeSet, List.forall_mem_cons]
      exact ⟨⟨rfl, rfl, rfl⟩, ⟨rfl, rfl, rfl⟩, ⟨rfl, rfl, rfl⟩, ⟨rfl, rfl, rfl⟩, ⟨rfl, rfl, rfl⟩,
        List.forall_mem_nil _⟩
    exact hrows b hb
  · rw [Except.ok.inj (decode_content_lit hb)]
    exact ⟨by simp [Instr.wf, mt needsEscape_iff.1 hb], rfl, rfl⟩

/-- No bit of a byte is outside the mask of the byte formats. -/
theorem setWidth_and_byteMask (b : Byte) : b.setWidth 28 &&& 0xFF#28 = b.setWidth 28 := by
  have hmask : (0xFF#28 : Tuple) = (BitVec.allOnes 8).setWidth 28 := by decide
  rw [hmask, ← BitVec.setWidth_and, BitVec.and_allOnes]

/-- Settles O2: a tuple by `encode_of_decodeTuple`, a byte by the row it decodes to. -/
theorem decodedWordReencodes : Obligations.DecodedWordReencodes := by
  intro w i h
  cases w with
  | command w =>
    have hword := encode_of_decodeTuple h
    exact ⟨wf_of_decodeTuple h, by rw [hword]; rfl, by rw [hword]; rfl⟩
  | wire b =>
    obtain rfl := Except.ok.inj h
    obtain ⟨hwf, hword, hmask⟩ := decodeWire_byteInstr b
    exact ⟨hwf, by rw [hword], by rw [hword, hmask]; exact (setWidth_and_byteMask b).symm⟩
  | content b =>
    obtain rfl := Except.ok.inj h
    obtain ⟨hwf, hword, hmask⟩ := decodeContent_byteInstr b
    exact ⟨hwf, by rw [hword], by rw [hword, hmask]; exact (setWidth_and_byteMask b).symm⟩

/-! ## The opcode table -/

theorem setWidth_28_eq_iff {b k : Byte} : b.setWidth 28 = k.setWidth 28 ↔ b = k := by
  refine ⟨fun h => ?_, fun h => h ▸ rfl⟩
  simpa using congrArg (BitVec.setWidth 8) h

/-- The rows that a tuple matches are those of its op field alone. -/
theorem lookupRow_command (w : Tuple) :
    lookupRow (.command w) = lookupRow (.command (makeTuple (tupleOp w) 0#16 0#8)) := by
  have hmask : ∀ r ∈ opcodeTable, r.format = .cw → r.mask = 0xF000000#28 := by decide
  have hrow : ∀ r ∈ opcodeTable,
      rowMatches (.command w) r = rowMatches (.command (makeTuple (tupleOp w) 0#16 0#8)) r := by
    intro r hr
    by_cases hf : r.format = .cw
    · simp only [rowMatches, wordFormat, wordBits, hmask r hr hf, and_opMask, tupleOp_makeTuple]
    · simp [rowMatches, wordFormat, beq_eq_false_iff_ne.2 hf]
  rw [lookupRow, lookupRow, List.filter_congr hrow]

/-- The row of what a word decodes to. -/
def decodedMnemonic (w : PortWord) : Option String :=
  match decode w with
  | .ok i => some (mnemonicOf i)
  | .error _ => none

theorem decodedMnemonic_of_ok {w : PortWord} {i : Instr} (h : decode w = .ok i) :
    decodedMnemonic w = some (mnemonicOf i) := by
  rw [decodedMnemonic, h]

/-- What row a tuple decodes to is its op field's alone. -/
theorem decodedMnemonic_command (w : Tuple) :
    decodedMnemonic (.command w) = decodedMnemonic (.command (makeTuple (tupleOp w) 0#16 0#8)) := by
  simp only [decodedMnemonic, decode, decodeTuple, tupleOp_makeTuple]
  generalize (tupleOp w).toNat = code
  match code with
  | 0 | 1 | 2 | 3 | 4 | 5 | 6 | 7 | _ + 8 => rfl

/-- A wire byte of no row of its own is RX.DATA's. -/
theorem lookupRow_wire_data {b : Byte} (hflag : b ≠ flagByte) (hesc : b ≠ escByte) :
    lookupRow (.wire b) = some ⟨"RX.DATA", .rxw, 0x00#28, 0x00#28⟩ := by
  have hflag' : b.setWidth 28 ≠ 0x7E#28 := mt (setWidth_28_eq_iff (k := flagByte)).1 hflag
  have hesc' : b.setWidth 28 ≠ 0x7D#28 := mt (setWidth_28_eq_iff (k := escByte)).1 hesc
  simp [lookupRow, opcodeTable, rowMatches, wordFormat, wordBits, setWidth_and_byteMask, hflag', hesc', moreSpecific]

/-- A content byte of no row of its own is TX.LIT's. -/
theorem lookupRow_content_lit {b : Byte} (h : b ∉ escapeSet) :
    lookupRow (.content b) = some ⟨"TX.LIT", .txw, 0x00#28, 0x00#28⟩ := by
  have hne : ∀ k ∈ escapeSet, b.setWidth 28 ≠ k.setWidth 28 := fun k hk hb =>
    h (setWidth_28_eq_iff.1 hb ▸ hk)
  have hflag : b.setWidth 28 ≠ 0x7E#28 := hne flagByte (by decide)
  have hesc : b.setWidth 28 ≠ 0x7D#28 := hne escByte (by decide)
  have hxon : b.setWidth 28 ≠ 0x11#28 := hne xonByte (by decide)
  have hxoff : b.setWidth 28 ≠ 0x13#28 := hne xoffByte (by decide)
  have hspecial : b.setWidth 28 ≠ 0xF8#28 := hne specialByte (by decide)
  simp [lookupRow, opcodeTable, rowMatches, wordFormat, wordBits, setWidth_and_byteMask, hflag, hesc, hxon, hxoff,
    hspecial, moreSpecific]

/-- Settles O3: of a tuple only the op field counts on both sides, which leaves sixteen cases; a byte is one of the fixed
rows or falls to the default row of its format. -/
theorem decoderFollowsOpcodeTable : Obligations.DecoderFollowsOpcodeTable := by
  intro w
  change (lookupRow w).map Row.mnemonic = decodedMnemonic w
  cases w with
  | command w =>
    have hop : ∀ op : BitVec 4, (lookupRow (.command (makeTuple op 0#16 0#8))).map Row.mnemonic =
        decodedMnemonic (.command (makeTuple op 0#16 0#8)) := by decide
    rw [lookupRow_command, decodedMnemonic_command, hop]
  | wire b =>
    by_cases hflag : b = flagByte
    · subst hflag; decide
    by_cases hesc : b = escByte
    · subst hesc; decide
    rw [lookupRow_wire_data hflag hesc, decodedMnemonic_of_ok (decode_wire_data hflag hesc)]
    rfl
  | content b =>
    by_cases hb : b ∈ escapeSet
    · have hrows : ∀ r ∈ escapeSet, (lookupRow (.content r)).map Row.mnemonic = decodedMnemonic (.content r) := by
        decide
      exact hrows b hb
    · rw [lookupRow_content_lit hb, decodedMnemonic_of_ok (decode_content_lit hb)]
      rfl

/-- Settles O6: sixteen closed words. -/
theorem sampleWordsDecode : Obligations.SampleWordsDecode := by
  unfold Obligations.SampleWordsDecode
  decide

end Sys2Proof
end

section
/-! The receive invariants 1 to 5 of 10_state.md R32 at reset and along a step: which receive operation keeps them and why,
and from that O48 and O49. -/

namespace Sys2Proof.Machine

open Sys2Proof.Safety

/-! ## Only the receive registers matter -/

/-- Two states with the same receive registers have the invariants together. -/
theorem invariants_of_rxView_eq {s t : State} (hi : Invariants s) (h : rxView t = rxView s) : Invariants t := by
  cases s
  cases t
  simp only [rxView, Prod.mk.injEq] at h
  obtain ⟨rfl, rfl, rfl, rfl, rfl, rfl⟩ := h
  exact ⟨hi.cap, ⟨hi.buffer.holds, hi.buffer.fits⟩, hi.lag, hi.overflow, hi.idle⟩

/-- An empty frame, or no frame, has the invariants in any mode (R35, R159). -/
theorem invariants_clearRx (m : Mode) {s : State} (hcap : capAdmissible s.bufCap = true) :
    Invariants (clearRx m s) where
  cap := hcap
  buffer := ⟨rfl, capFits_zero _⟩
  lag _ _ := rfl
  overflow h := Bool.noConfusion h
  idle _ := ⟨rfl, rfl, rfl⟩

/-- Settles O48: a reset state is one with the receive registers cleared. -/
theorem invariantsAtReset : Obligations.InvariantsAtReset := by
  have hreset : ∀ cap, capAdmissible cap = true → Invariants (State.resetWith cap) := fun cap hcap =>
    invariants_clearRx .notStarted (s := State.resetWith cap) hcap
  exact ⟨hreset .unbounded rfl, hreset⟩

/-! ## Receive operations -/

theorem appendByte_rxMode {s t : State} {v : Byte} (h : appendByte v s = .ok t) : t.rxMode = s.rxMode := by
  obtain ⟨_, rfl⟩ | ⟨_, _, c, _, rfl⟩ := appendByte_cases h
  · rfl
  · rfl

/-- An open frame may pass between Started and Unescaping. -/
theorem invariants_setRxMode_of_open {m : Mode} {s : State} (hi : Invariants s) (hs : s.rxMode ≠ .notStarted)
    (hm : m ≠ .notStarted) : Invariants (setRxMode m s) where
  cap := hi.cap
  buffer := ⟨hi.buffer.holds, hi.buffer.fits⟩
  lag _ hovf := hi.lag hs hovf
  overflow hovf := ⟨hm, (hi.overflow hovf).2⟩
  idle hidle := absurd hidle hm

/-- With room the accumulator stays two behind, by `crc16_take_concat`. -/
theorem crcAfterAppend_eq {s : State} (hb : BufferOk s) (hlag : s.rxCrc = crc16 ((content s).take (s.rxLen - 2)))
    (v : Byte) : crcAfterAppend s = crc16 ((content s ++ [v]).take (s.rxLen + 1 - 2)) := by
  have hlen : (content s).length = s.rxLen := content_length hb
  rw [crcAfterAppend, hlag]
  split_ifs with h2
  · have hstep := crc16_take_concat (c := content s) (hlen ▸ h2) v
    rw [List.length_append, List.length_singleton, hlen] at hstep
    exact hstep.symm
  · rw [show s.rxLen - 2 = 0 by omega, show s.rxLen + 1 - 2 = 0 by omega, List.take_zero, List.take_zero]

/-- A content byte of an open frame keeps the invariants: dropped at a full buffer, stored with the accumulator two
behind otherwise (R158). -/
theorem appendByte_invariants {s t : State} {v : Byte} (hi : Invariants s) (hopen : s.rxMode ≠ .notStarted)
    (h : appendByte v s = .ok t) : Invariants t := by
  have hbuffer : BufferOk t := appendByte_bufferOk hi.buffer h
  obtain ⟨hfull, rfl⟩ | ⟨hroom, -, c, hc, rfl⟩ := appendByte_cases h
  · exact ⟨hi.cap, hbuffer, fun _ hovf => Bool.noConfusion hovf, fun _ => ⟨hopen, hfull⟩,
      fun hidle => absurd hidle hopen⟩
  · rw [laggedCrc_eq hi.buffer] at hc
    obtain rfl := Except.ok.inj hc
    refine ⟨hi.cap, hbuffer, fun _ hovf => ?_, fun hovf => ?_, fun hidle => absurd hidle hopen⟩
    · have hlag := crcAfterAppend_eq hi.buffer (hi.lag hopen hovf) v
      rwa [content, ← memBytes_memInsert hi.buffer.holds] at hlag
    · exact absurd (hi.overflow hovf).2 (ne_true_of_eq_false hroom)

/-- After a frame boundary an empty frame is open, whatever was reported (R159). -/
theorem frameBoundary_rxView {s t : State} (h : frameBoundary s = .ok t) : rxView t = rxView (clearRx .started s) := by
  obtain rfl | ⟨e, rfl⟩ := frameBoundary_cases h
  · rfl
  · rfl

theorem rxEffect_invariants {s t : State} (hi : Invariants s) (h : RxEffect s t) : Invariants t := by
  cases h with
  | discard => exact hi
  | opened => exact invariants_clearRx .started hi.cap
  | escape hm => exact invariants_setRxMode_of_open hi (by simp [hm]) (by decide)
  | data v t hm ha => exact appendByte_invariants hi (by simp [hm]) ha
  | transformed v u hm ha =>
    have hu : u.rxMode ≠ .notStarted := by simp [appendByte_rxMode ha, hm]
    exact invariants_setRxMode_of_open (appendByte_invariants hi (by simp [hm]) ha) hu (by decide)
  | boundary t _ hb => exact invariants_of_rxView_eq (invariants_clearRx .started hi.cap) (frameBoundary_rxView hb)

/-! ## One instruction, one step -/

theorem exec_invariants {i : Instr} {s t : State} (hi : Invariants s) (h : exec i s = .next t) : Invariants t := by
  cases exec_effect h with
  | query | wire | txOpened | txByte | txClosed => exact invariants_of_rxView_eq hi rfl
  | rxReset => exact invariants_clearRx .notStarted hi.cap
  | rx t hrx => exact rxEffect_invariants hi hrx

theorem hardwareReset_invariants {s : State} (hcap : capAdmissible s.bufCap = true) : Invariants (hardwareReset s) :=
  invariants_of_rxView_eq (invariants_clearRx .notStarted hcap) rfl

/-- Settles O49: a step idles, resets or runs one instruction with that instruction's word off the queue, which the
invariants do not look at. -/
theorem everyStepKeepsInvariants : Obligations.EveryStepKeepsInvariants := by
  intro s t hi h
  have hqueue : ∀ rest, Invariants (setInputs rest s) := fun rest => invariants_of_rxView_eq hi rfl
  obtain ⟨-, ⟨-, rfl⟩ | ⟨rest, -, rfl⟩ | ⟨w, rest, i, -, -, hexec⟩⟩ := step_cases h
  · exact hi
  · exact hardwareReset_invariants (hqueue rest).cap
  · exact exec_invariants (hqueue rest) hexec

end Sys2Proof.Machine
end

section
/-! Receive operations complete (43_rx_decoder.md R150, R155 to R158, R165, R166): what a content byte, an overflowed frame and
RXRESET do, that no receive operation stops in a filled buffer, and from these O31, O32, O33, O35, O36, O37, O41, O50, O51 and
O52. -/

namespace Sys2Proof.Machine

open Sys2Proof.Safety

/-- Settles O52: the read is defined below `rx_len` only. -/
theorem readsAboveLengthGiveNoValue : Obligations.ReadsAboveLengthGiveNoValue := fun s _ h => memRead_past s h

/-! ## A content byte -/

theorem wireData_of_started {s : State} (hm : s.rxMode = .started) (b : Byte) : wireData b s = appendByte b s := by
  rw [wireData, hm]

/-- Settles O31: the column of R155, where an append with room writes behind the last cell. -/
theorem dataByteIsStoredUnchanged : Obligations.DataByteIsStoredUnchanged := by
  intro b s hb hm hroom hflag hesc
  rw [exec_rxbyte_data hflag hesc, wireData_of_started hm, appendByte_room hb hroom, memInsert_end hb.holds]
  rfl

/-- Settles O32: the row of R157, the same append with the transformed byte and then the mode. -/
theorem escapedByteIsStoredTransformed : Obligations.EscapedByteIsStoredTransformed := by
  intro b s hb hm hroom hflag
  rw [exec_rxbyte_of_unescaping hflag hm, storeUnescaped, appendByte_room hb hroom, memInsert_end hb.holds]
  rfl

/-- Settles O33: from either open mode a content byte goes to the append, which drops it (R158). -/
theorem contentByteAtFullBufferIsDropped : Obligations.ContentByteAtFullBufferIsDropped := by
  refine fun b s hfull hflag => ⟨fun hm hesc => ?_, fun hm => ?_⟩
  · rw [exec_rxbyte_data hflag hesc, wireData_of_started hm, appendByte_full hfull]
    rfl
  · rw [exec_rxbyte_of_unescaping hflag hm, storeUnescaped, appendByte_full hfull]
    rfl

/-! ## A flag, and RXRESET -/

theorem wireFlag_of_open {s : State} (hm : s.rxMode ≠ .notStarted) : wireFlag s = frameBoundary s := by
  cases h : s.rxMode with
  | notStarted => exact absurd h hm
  | started | unescaping => simp only [wireFlag, h]

/-- An overflowed frame is reported without any comparison (R162). -/
theorem frameBoundary_of_overflow {s : State} (h : s.rxOvf = true) :
    frameBoundary s = .ok (clearRx .started (emitEvt .errOverflow s)) := by
  rw [frameBoundary, finalize, if_pos h]
  rfl

/-- Settles O35: the flag of an open frame is a frame boundary, and that tests the overflow first. -/
theorem flagReportsOverflow : Obligations.FlagReportsOverflow := by
  intro s hm hovf
  have hopen : s.rxMode ≠ .notStarted := by
    obtain hm | hm := hm <;> simp [hm]
  rw [exec_rxbyte_flag, wireFlag_of_open hopen, frameBoundary_of_overflow hovf]
  rfl

theorem exec_rxreset (s : State) : exec .rxreset s = .next (clearRx .notStarted s) := rfl

/-- Settles O36: the word of code 0x7, and the cleared receive registers, which are those of a hardware reset. -/
theorem rxresetClearsReceiver : Obligations.RxresetClearsReceiver := by
  refine fun crc b s => ⟨decode_rxreset_tuple crc b, exec_rxreset s, fun t h => ?_⟩
  obtain rfl := Host.Outcome.next.inj h
  rfl

/-! ## No receive operation stops in a filled buffer -/

theorem appendByte_completes {s : State} (hb : BufferOk s) (v : Byte) : ∃ t, appendByte v s = .ok t := by
  cases hf : bufferFull s with
  | true => exact ⟨_, appendByte_full hf v⟩
  | false => exact ⟨_, appendByte_room hb hf v⟩

theorem storeUnescaped_completes {s : State} (hb : BufferOk s) (b : Byte) : ∃ t, storeUnescaped b s = .ok t := by
  obtain ⟨u, hu⟩ := appendByte_completes hb (escapeTransform b)
  exact ⟨setRxMode .started u, by rw [storeUnescaped, hu]; rfl⟩

theorem wireFlag_completes {s : State} (hb : BufferOk s) : ∃ t, wireFlag s = .ok t := by
  cases hm : s.rxMode with
  | notStarted => exact ⟨reopen s, by simp only [wireFlag, hm]⟩
  | started | unescaping => exact ⟨_, (wireFlag_of_open (by simp [hm])).trans (frameBoundary_eq hb)⟩

theorem wireEsc_completes {s : State} (hb : BufferOk s) : ∃ t, wireEsc s = .ok t := by
  unfold wireEsc
  split
  · exact ⟨_, rfl⟩
  · exact ⟨_, rfl⟩
  · exact storeUnescaped_completes hb escByte

theorem wireData_completes {s : State} (hb : BufferOk s) (b : Byte) : ∃ t, wireData b s = .ok t := by
  unfold wireData
  split
  · exact ⟨_, rfl⟩
  · exact appendByte_completes hb b
  · exact storeUnescaped_completes hb b

theorem settle_completes {r : Except Fault State} (h : ∃ t, r = .ok t) : ∃ t, settle r = .next t := by
  obtain ⟨t, rfl⟩ := h
  exact ⟨t, rfl⟩

theorem exec_rxbyte_completes {s : State} (hb : BufferOk s) (b : Byte) : ∃ t, exec (.rxbyte b) s = .next t := by
  by_cases hflag : b = flagByte
  · rw [hflag, exec_rxbyte_flag]
    exact settle_completes (wireFlag_completes hb)
  by_cases hesc : b = escByte
  · rw [hesc, exec_rxbyte_esc]
    exact settle_completes (wireEsc_completes hb)
  rw [exec_rxbyte_data hflag hesc]
  exact settle_completes (wireData_completes hb b)

/-- Settles O37: a row and RXBYTE of its byte are the same column of R150's table. -/
theorem receiveClassRowsActAsRxbyte : Obligations.ReceiveClassRowsActAsRxbyte := by
  intro s hb
  obtain ⟨t, ht⟩ := exec_rxbyte_completes hb flagByte
  obtain ⟨u, hu⟩ := exec_rxbyte_completes hb escByte
  refine ⟨⟨t, ht, ht⟩, ⟨u, hu, hu⟩, fun b hflag hesc => ?_⟩
  obtain ⟨v, hv⟩ := exec_rxbyte_completes hb b
  exact ⟨v, (exec_rxbyte_data hflag hesc s).symm.trans hv, hv⟩

/-- In the transmit order every instruction completes from a filled buffer. -/
theorem exec_completes {i : Instr} {s : State} (hb : BufferOk s) (ho : inOrder i s = true) :
    ∃ t, exec i s = .next t := by
  cases i with
  | txopen => exact ⟨_, exec_txopen_of_closed (by simpa [inOrder] using ho)⟩
  | txbyte b => exact ⟨_, exec_txbyte_of_open ho b⟩
  | txclose => exact ⟨_, exec_txclose_sends_finishCrc ho⟩
  | rxbyte b => exact exec_rxbyte_completes hb b
  | rxFlag => exact settle_completes (wireFlag_completes hb)
  | rxEsc => exact settle_completes (wireEsc_completes hb)
  | rxData b => exact settle_completes (wireData_completes hb b)
  | crcstep | needesc | rxreset | txStuff7E | txStuff7D | txStuff11 | txStuff13 | txStuffF8 | txLit => exact ⟨_, rfl⟩

/-- Settles O50: `exec_completes`. -/
theorem everyOperationInOrderCompletes : Obligations.EveryOperationInOrderCompletes := fun _ _ => exec_completes

/-- From a filled buffer an instruction completes or is refused. -/
theorem exec_ne_fault {i : Instr} {s : State} (hb : BufferOk s) (f : Fault) : exec i s ≠ .fault f := by
  intro h
  cases ho : inOrder i s with
  | true =>
    obtain ⟨t, ht⟩ := exec_completes hb ho
    exact nomatch ht.symm.trans h
  | false =>
    obtain ⟨r, hr⟩ := (onlyMisorderedTransmitIsRefused i s).2 ho
    exact nomatch hr.symm.trans h

theorem runInput_ne_fault {s : State} (hb : BufferOk s) (x : Input) (f : Fault) : runInput x s ≠ .fault f := by
  cases x with
  | hardwareReset => exact nofun
  | operation w =>
    rw [runInput, runWord]
    split
    · exact exec_ne_fault hb f
    · exact nofun

/-- Settles O51: a step refuses, idles or acts on one input, which does not fault (`runInput_ne_fault`). -/
theorem noStepFaults : Obligations.NoStepFaults := by
  intro s f hi
  unfold step takeNext
  split_ifs with hcap
  · cases s.inputs with
    | nil => exact nofun
    | cons x rest =>
      have hqueue : BufferOk (setInputs rest s) := ⟨hi.buffer.holds, hi.buffer.fits⟩
      exact runInput_ne_fault hqueue x f
  · exact nofun

/-! ## Chunks -/

theorem bufferOk_clearRx (m : Mode) (s : State) : BufferOk (clearRx m s) := ⟨rfl, capFits_zero _⟩

theorem rxEffect_bufferOk {s t : State} (hb : BufferOk s) (h : RxEffect s t) : BufferOk t := by
  cases h with
  | discard => exact hb
  | opened => exact bufferOk_clearRx .started s
  | escape => exact ⟨hb.holds, hb.fits⟩
  | data v t _ ha => exact appendByte_bufferOk hb ha
  | transformed v u _ ha =>
    have hu := appendByte_bufferOk hb ha
    exact ⟨hu.holds, hu.fits⟩
  | boundary t _ hf =>
    obtain rfl | ⟨e, rfl⟩ := frameBoundary_cases hf
    · exact bufferOk_clearRx _ _
    · exact bufferOk_clearRx _ _

/-- A chunk never stops, and leaves the buffer filled for the next. -/
theorem execAll_rxchunkOps_completes {s : State} (hb : BufferOk s) (ws : List Byte) :
    ∃ t, execAll (rxchunkOps ws) s = .next t ∧ BufferOk t := by
  induction ws generalizing s with
  | nil => exact ⟨s, rfl, hb⟩
  | cons w ws ih =>
    obtain ⟨u, hu⟩ := exec_rxbyte_completes hb w
    obtain ⟨t, ht, htb⟩ := ih (rxEffect_bufferOk hb (execRxbyte_effect hu))
    exact ⟨t, (execAll_cons_next hu _).trans ht, htb⟩

/-- Settles O41: both chunks complete, and a chunk is the sequence of its bytes. -/
theorem chunkingDoesNotMatter : Obligations.ChunkingDoesNotMatter := by
  intro a b s hb
  obtain ⟨t, ht, htb⟩ := execAll_rxchunkOps_completes hb a
  obtain ⟨u, hu, -⟩ := execAll_rxchunkOps_completes htb b
  exact ⟨t, u, ht, hu, by rw [rxchunkOps_append, execAll_append_next ht, hu]⟩

end Sys2Proof.Machine
end

section
/-! The two sides share no state (00_scope.md R2, R9): what a receive instruction leaves alone, what a transmit instruction does
to the rest, that the receiver does not see the changes made elsewhere, and from these O53, O54 and O55. -/

namespace Sys2Proof.Machine

open Sys2Proof.Safety

/-! ## What a receive instruction leaves alone -/

/-- Everything the receive side does not write: all but the receive registers and `evt_out`. -/
def outsideReceiver (s : State) : BufCap × (Word16 × Bool) × List Byte × List Result × List Input :=
  (s.bufCap, txView s, s.wireOut, s.resOut, s.inputs)

theorem appendByte_outsideReceiver {s t : State} {v : Byte} (h : appendByte v s = .ok t) :
    outsideReceiver t = outsideReceiver s := by
  obtain ⟨_, rfl⟩ | ⟨_, _, c, _, rfl⟩ := appendByte_cases h
  · rfl
  · rfl

theorem rxEffect_outsideReceiver {s t : State} (h : RxEffect s t) : outsideReceiver t = outsideReceiver s := by
  cases h with
  | discard | opened | escape => rfl
  | data v t _ ha => exact appendByte_outsideReceiver ha
  | transformed v u _ ha => exact appendByte_outsideReceiver (t := u) ha
  | boundary t _ hb =>
    obtain rfl | ⟨e, rfl⟩ := frameBoundary_cases hb
    · rfl
    · rfl

theorem exec_receive_outsideReceiver {i : Instr} {s t : State} (hi : isReceive i = true) (h : exec i s = .next t) :
    outsideReceiver t = outsideReceiver s := by
  cases i with
  | rxbyte b => exact rxEffect_outsideReceiver (execRxbyte_effect h)
  | rxFlag => exact rxEffect_outsideReceiver (wireFlag_effect (settle_eq_next.1 h))
  | rxEsc => exact rxEffect_outsideReceiver (wireEsc_effect (settle_eq_next.1 h))
  | rxData b => exact rxEffect_outsideReceiver (wireData_effect (settle_eq_next.1 h))
  | rxreset => cases h; rfl
  | _ => cases hi

/-! ## What a transmit instruction does -/

/-- What a transmit instruction in order does to the state (R131 to R133, and R75 for the class rows). -/
def transmitUpdate : Instr → State → State
  | .txopen, s => setTxOpen true (setTxCrc crcReset (emitWire [flagByte] s))
  | .txbyte b, s => emitWire (stuff b) (setTxCrc (crc16Step s.txCrc b) s)
  | .txclose, s =>
    setTxOpen false (emitWire (stuffSeq [lowByte (finishCrc s.txCrc), highByte (finishCrc s.txCrc)] ++ [flagByte]) s)
  | .txStuff7E, s => emitPair flagByte s
  | .txStuff7D, s => emitPair escByte s
  | .txStuff11, s => emitPair xonByte s
  | .txStuff13, s => emitPair xoffByte s
  | .txStuffF8, s => emitPair specialByte s
  | .txLit b, s => emitWire [b] s
  | .crcstep _ _, s | .needesc _, s | .rxbyte _, s | .rxreset, s | .rxFlag, s | .rxEsc, s | .rxData _, s => s

theorem exec_transmit_of_inOrder {i : Instr} {s : State} (hi : isTransmit i = true) (ho : inOrder i s = true) :
    exec i s = .next (transmitUpdate i s) := by
  cases i with
  | txopen => exact exec_txopen_of_closed (by simpa [inOrder] using ho)
  | txbyte b => exact exec_txbyte_of_open ho b
  | txclose => exact exec_txclose_sends_finishCrc ho
  | txStuff7E | txStuff7D | txStuff11 | txStuff13 | txStuffF8 | txLit => rfl
  | _ => cases hi

/-- A transmit instruction completes exactly in order, and then with its update. -/
theorem exec_transmit_eq_next {i : Instr} {s t : State} (hi : isTransmit i = true) :
    exec i s = .next t ↔ inOrder i s = true ∧ transmitUpdate i s = t := by
  cases ho : inOrder i s with
  | true => simp [exec_transmit_of_inOrder hi ho]
  | false =>
    obtain ⟨r, hr⟩ := (onlyMisorderedTransmitIsRefused i s).2 ho
    simp [hr]

/-- Everything the transmit side does not write: all but the transmit registers and `wire_out`. -/
def outsideTransmitter (s : State) :
    (BufCap × Mode × Nat × Memory × Word16 × Bool) × List Event × List Result × List Input :=
  (rxView s, s.evtOut, s.resOut, s.inputs)

theorem transmitUpdate_outsideTransmitter (i : Instr) (s : State) :
    outsideTransmitter (transmitUpdate i s) = outsideTransmitter s := by
  cases i <;> rfl

/-! ## The three sides -/

theorem exec_query_eq_next {i : Instr} {s t : State} (ht : isTransmit i = false) (hr : isReceive i = false)
    (h : exec i s = .next t) : ∃ r, t = emitResult r s := by
  cases i with
  | crcstep c b => cases h; exact ⟨_, rfl⟩
  | needesc b => cases h; exact ⟨_, rfl⟩
  | rxbyte | rxreset | rxFlag | rxEsc | rxData => cases hr
  | _ => cases ht

theorem isReceive_of_isTransmit {i : Instr} (h : isTransmit i = true) : isReceive i = false := by
  cases i with
  | rxbyte | rxreset | rxFlag | rxEsc | rxData => cases h
  | _ => rfl

/-- Settles O53: a transmit instruction by its update, a receive one by `exec_receive_outsideReceiver`, and a query only
puts its result. -/
theorem sidesShareNoState : Obligations.SidesShareNoState := by
  intro i s t h
  cases ht : isTransmit i with
  | true =>
    obtain ⟨-, rfl⟩ := (exec_transmit_eq_next ht).1 h
    obtain ⟨hview, hevt, hres, hqueue⟩ : _ = _ ∧ _ = _ ∧ _ = _ ∧ _ = _ := by
      simpa only [outsideTransmitter, Prod.mk.injEq] using transmitUpdate_outsideTransmitter i s
    have hr := isReceive_of_isTransmit ht
    exact ⟨hqueue, congrArg Prod.fst hview, fun _ => ⟨hview, hevt, hres⟩, fun hi => (Bool.false_ne_true (hr ▸ hi)).elim,
      fun hi => Bool.noConfusion hi⟩
  | false =>
    cases hr : isReceive i with
    | true =>
      obtain ⟨hcap, htx, hwire, hres, hqueue⟩ : _ = _ ∧ _ = _ ∧ _ = _ ∧ _ = _ ∧ _ = _ := by
        simpa only [outsideReceiver, Prod.mk.injEq] using exec_receive_outsideReceiver hr h
      exact ⟨hqueue, hcap, fun hi => Bool.noConfusion hi, fun _ => ⟨htx, hwire, hres⟩, fun _ hi => Bool.noConfusion hi⟩
    | false =>
      obtain ⟨r, rfl⟩ := exec_query_eq_next ht hr h
      exact ⟨rfl, rfl, fun hi => Bool.noConfusion hi, fun hi => Bool.noConfusion hi, fun _ _ => ⟨rfl, rfl, rfl, rfl⟩⟩

/-! ## Changes the receiver does not see -/

/-- A change of the state that the receive side does not see: it keeps the receive registers and may come before or after
any of their updates. -/
structure LeavesReceiver (F : State → State) : Prop where
  bufCap (s : State) : (F s).bufCap = s.bufCap
  rxMode (s : State) : (F s).rxMode = s.rxMode
  rxLen (s : State) : (F s).rxLen = s.rxLen
  rxBuf (s : State) : (F s).rxBuf = s.rxBuf
  rxCrc (s : State) : (F s).rxCrc = s.rxCrc
  rxOvf (s : State) : (F s).rxOvf = s.rxOvf
  setRxMode (m : Mode) (s : State) : F (setRxMode m s) = setRxMode m (F s)
  setRxLen (n : Nat) (s : State) : F (setRxLen n s) = setRxLen n (F s)
  setRxBuf (m : Memory) (s : State) : F (setRxBuf m s) = setRxBuf m (F s)
  setRxCrc (c : Word16) (s : State) : F (setRxCrc c s) = setRxCrc c (F s)
  setRxOvf (v : Bool) (s : State) : F (setRxOvf v s) = setRxOvf v (F s)
  emitEvt (e : Event) (s : State) : F (emitEvt e s) = emitEvt e (F s)

/-- The same change made to the next state, if there is one. -/
def mapNext (F : State → State) : Host.Outcome State Fault Refusal → Host.Outcome State Fault Refusal
  | .next s => .next (F s)
  | .fault f => .fault f
  | .refused r => .refused r

theorem mapNext_eq_next {F : State → State} {o : Host.Outcome State Fault Refusal} {t : State} :
    mapNext F o = .next t ↔ ∃ u, o = .next u ∧ F u = t := by
  cases o <;> simp [mapNext]

theorem settle_map (F : State → State) (r : Except Fault State) : settle (r.map F) = mapNext F (settle r) := by
  cases r <;> rfl

section LeavesReceiver
variable {F : State → State} (hF : LeavesReceiver F)
include hF

theorem clearRx_commute (m : Mode) (s : State) : clearRx m (F s) = F (clearRx m s) := by
  simp only [clearRx, hF.setRxMode, hF.setRxLen, hF.setRxBuf, hF.setRxCrc, hF.setRxOvf]

theorem memRead_unseen (i : Nat) (s : State) : memRead i (F s) = memRead i s := by
  simp only [memRead, hF.rxLen, hF.rxBuf]

theorem memReadRange_unseen (s : State) (i n : Nat) : memReadRange (F s) i n = memReadRange s i n := by
  induction n generalizing i with
  | zero => rfl
  | succ n ih => simp only [memReadRange, memRead_unseen hF, ih]

theorem laggedCrc_unseen (s : State) : laggedCrc (F s) = laggedCrc s := by
  simp only [laggedCrc, memRead_unseen hF, hF.rxLen, hF.rxCrc]

theorem memWrite_commute (i : Nat) (v : Byte) (s : State) : memWrite i v (F s) = (memWrite i v s).map F := by
  simp only [memWrite, hF.bufCap, hF.rxBuf]
  split
  · exact congrArg Except.ok (hF.setRxBuf _ s).symm
  · rfl

theorem appendByte_commute (v : Byte) (s : State) : appendByte v (F s) = (appendByte v s).map F := by
  have hfull : bufferFull (F s) = bufferFull s := by simp only [bufferFull, hF.bufCap, hF.rxLen]
  simp only [appendByte, hfull, laggedCrc_unseen hF, hF.rxLen]
  split
  · exact congrArg Except.ok (hF.setRxOvf true s).symm
  · cases laggedCrc s with
    | error f => rfl
    | ok c =>
      simp only [← hF.setRxCrc, memWrite_commute hF]
      cases memWrite s.rxLen v (setRxCrc c s) with
      | error f => rfl
      | ok u => exact congrArg Except.ok (hF.setRxLen _ u).symm

theorem judge_commute (s : State) : judge (F s) = (judge s).map F := by
  simp only [judge, memRead_unseen hF, memReadRange_unseen hF, hF.rxLen, hF.rxCrc]
  cases memRead (s.rxLen - 1) s with
  | error f => rfl
  | ok last =>
    cases memRead (s.rxLen - 2) s with
    | error f => rfl
    | ok lastButOne =>
      dsimp only
      split
      · cases memReadRange s 0 (s.rxLen - 2) with
        | error f => rfl
        | ok payload => exact congrArg Except.ok (hF.emitEvt _ s).symm
      · exact congrArg Except.ok (hF.emitEvt _ s).symm

theorem finalize_commute (s : State) : finalize (F s) = (finalize s).map F := by
  simp only [finalize, judge_commute hF, hF.rxOvf, hF.rxLen]
  split
  · exact congrArg Except.ok (hF.emitEvt _ s).symm
  · split
    · rfl
    · rfl

theorem frameBoundary_commute (s : State) : frameBoundary (F s) = (frameBoundary s).map F := by
  rw [frameBoundary, frameBoundary, finalize_commute hF]
  cases finalize s with
  | error f => rfl
  | ok u => exact congrArg Except.ok (clearRx_commute hF .started u)

theorem storeUnescaped_commute (b : Byte) (s : State) : storeUnescaped b (F s) = (storeUnescaped b s).map F := by
  rw [storeUnescaped, storeUnescaped, appendByte_commute hF]
  cases appendByte (escapeTransform b) s with
  | error f => rfl
  | ok u => exact congrArg Except.ok (hF.setRxMode .started u).symm

theorem wireFlag_commute (s : State) : wireFlag (F s) = (wireFlag s).map F := by
  simp only [wireFlag, hF.rxMode]
  split
  · exact congrArg Except.ok (clearRx_commute hF .started s)
  · exact frameBoundary_commute hF s
  · exact frameBoundary_commute hF s

theorem wireEsc_commute (s : State) : wireEsc (F s) = (wireEsc s).map F := by
  simp only [wireEsc, hF.rxMode]
  split
  · rfl
  · exact congrArg Except.ok (hF.setRxMode .unescaping s).symm
  · exact storeUnescaped_commute hF escByte s

theorem wireData_commute (b : Byte) (s : State) : wireData b (F s) = (wireData b s).map F := by
  simp only [wireData, hF.rxMode]
  split
  · rfl
  · exact appendByte_commute hF b s
  · exact storeUnescaped_commute hF b s

/-- A receive instruction and a change it does not see may come in either order. -/
theorem exec_receive_commute {i : Instr} (hi : isReceive i = true) (s : State) :
    exec i (F s) = mapNext F (exec i s) := by
  have hflag : settle (wireFlag (F s)) = mapNext F (settle (wireFlag s)) := by rw [wireFlag_commute hF, settle_map]
  have hesc : settle (wireEsc (F s)) = mapNext F (settle (wireEsc s)) := by rw [wireEsc_commute hF, settle_map]
  have hdata : ∀ b, settle (wireData b (F s)) = mapNext F (settle (wireData b s)) := fun b => by
    rw [wireData_commute hF, settle_map]
  cases i with
  | rxbyte b =>
    simp only [exec, execRxbyte]
    split
    · exact hflag
    · exact hesc
    · exact hdata b
  | rxreset => exact congrArg Host.Outcome.next (clearRx_commute hF .notStarted s)
  | rxFlag => exact hflag
  | rxEsc => exact hesc
  | rxData b => exact hdata b
  | _ => cases hi
end LeavesReceiver

/-! ## Transmit and receive in either order -/

theorem transmitUpdate_leavesReceiver (i : Instr) : LeavesReceiver (transmitUpdate i) := by
  cases i <;> exact ⟨fun _ => rfl, fun _ => rfl, fun _ => rfl, fun _ => rfl, fun _ => rfl, fun _ => rfl, fun _ _ => rfl,
    fun _ _ => rfl, fun _ _ => rfl, fun _ _ => rfl, fun _ _ => rfl, fun _ _ => rfl⟩

theorem execAll_pair_eq_next {i j : Instr} {s t : State} :
    execAll [i, j] s = .next t ↔ ∃ u, exec i s = .next u ∧ exec j u = .next t := by
  simp [execAll_cons_eq_next]

/-- The transmit order looks at `tx_open` alone. -/
theorem inOrder_of_txView_eq {s t : State} (h : txView t = txView s) (i : Instr) : inOrder i t = inOrder i s := by
  have hopen : t.txOpen = s.txOpen := congrArg Prod.snd h
  cases i <;> simp only [inOrder, hopen]

/-- Settles O54: in either order both complete exactly where the transmit instruction is in order and the receive
instruction completes from `s`, and the state is the transmit update of the one received. -/
theorem transmitAndReceiveCommute : Obligations.TransmitAndReceiveCommute := by
  intro i j s t hi hj
  have hframe : ∀ v, exec j s = .next v → inOrder i v = inOrder i s := fun v hv =>
    inOrder_of_txView_eq (congrArg (·.2.1) (exec_receive_outsideReceiver hj hv)) i
  have hleft : execAll [i, j] s = .next t ↔
      inOrder i s = true ∧ ∃ v, exec j s = .next v ∧ transmitUpdate i v = t := by
    simp only [execAll_pair_eq_next, exec_transmit_eq_next hi]
    constructor
    · rintro ⟨_, ⟨ho, rfl⟩, h⟩
      rw [exec_receive_commute (transmitUpdate_leavesReceiver i) hj, mapNext_eq_next] at h
      exact ⟨ho, h⟩
    · rintro ⟨ho, h⟩
      refine ⟨_, ⟨ho, rfl⟩, ?_⟩
      rwa [exec_receive_commute (transmitUpdate_leavesReceiver i) hj, mapNext_eq_next]
  have hright : execAll [j, i] s = .next t ↔
      inOrder i s = true ∧ ∃ v, exec j s = .next v ∧ transmitUpdate i v = t := by
    simp only [execAll_pair_eq_next, exec_transmit_eq_next hi]
    constructor
    · rintro ⟨v, hv, ho, ht⟩
      exact ⟨hframe v hv ▸ ho, v, hv, ht⟩
    · rintro ⟨ho, v, hv, ht⟩
      exact ⟨v, hv, (hframe v hv).trans ho, ht⟩
  exact hleft.trans hright.symm

/-! ## Changes no instruction sees -/

/-- More output before what was output. -/
def prefixOutputs (w : List Byte) (e : List Event) (r : List Result) (s : State) : State :=
  { s with wireOut := w ++ s.wireOut, evtOut := e ++ s.evtOut, resOut := r ++ s.resOut }

theorem prefixOutputs_leavesReceiver (w : List Byte) (e : List Event) (r : List Result) :
    LeavesReceiver (prefixOutputs w e r) where
  bufCap _ := rfl
  rxMode _ := rfl
  rxLen _ := rfl
  rxBuf _ := rfl
  rxCrc _ := rfl
  rxOvf _ := rfl
  setRxMode _ _ := rfl
  setRxLen _ _ := rfl
  setRxBuf _ _ := rfl
  setRxCrc _ _ := rfl
  setRxOvf _ _ := rfl
  emitEvt _ _ := state_ext rfl rfl rfl rfl rfl rfl rfl rfl rfl (List.append_assoc _ _ _).symm rfl rfl

/-- A change that no instruction sees: the transmit side and the queries do not either. -/
structure NeverSeen (F : State → State) : Prop extends LeavesReceiver F where
  txCrc (s : State) : (F s).txCrc = s.txCrc
  txOpen (s : State) : (F s).txOpen = s.txOpen
  setTxCrc (c : Word16) (s : State) : F (setTxCrc c s) = setTxCrc c (F s)
  setTxOpen (v : Bool) (s : State) : F (setTxOpen v s) = setTxOpen v (F s)
  emitWire (bs : List Byte) (s : State) : F (emitWire bs s) = emitWire bs (F s)
  emitResult (r : Result) (s : State) : F (emitResult r s) = emitResult r (F s)

theorem prefixOutputs_neverSeen (w : List Byte) (e : List Event) (r : List Result) :
    NeverSeen (prefixOutputs w e r) where
  toLeavesReceiver := prefixOutputs_leavesReceiver w e r
  txCrc _ := rfl
  txOpen _ := rfl
  setTxCrc _ _ := rfl
  setTxOpen _ _ := rfl
  emitWire _ _ := state_ext rfl rfl rfl rfl rfl rfl rfl rfl (List.append_assoc _ _ _).symm rfl rfl rfl
  emitResult _ _ := state_ext rfl rfl rfl rfl rfl rfl rfl rfl rfl rfl (List.append_assoc _ _ _).symm rfl

/-- An instruction and a change it does not see may come in either order, whatever the instruction's outcome. -/
theorem exec_commute {F : State → State} (hF : NeverSeen F) (i : Instr) (s : State) :
    exec i (F s) = mapNext F (exec i s) := by
  cases i with
  | rxbyte | rxreset | rxFlag | rxEsc | rxData => exact exec_receive_commute hF.toLeavesReceiver rfl s
  | txopen =>
    simp only [exec, execTxopen, hF.txOpen, ← hF.emitWire, ← hF.setTxCrc, ← hF.setTxOpen]
    split
    · rfl
    · rfl
  | txbyte b =>
    simp only [exec, execTxbyte, hF.txOpen, hF.txCrc, ← hF.emitWire, ← hF.setTxCrc]
    split
    · rfl
    · rfl
  | txclose =>
    simp only [exec, execTxclose, hF.txOpen, hF.txCrc, ← hF.emitWire, ← hF.setTxOpen]
    split
    · rfl
    · rfl
  | crcstep | needesc => exact congrArg Host.Outcome.next (hF.emitResult _ s).symm
  | txStuff7E | txStuff7D | txStuff11 | txStuff13 | txStuffF8 | txLit =>
    exact congrArg Host.Outcome.next (hF.emitWire _ s).symm

/-- Settles O55: no instruction sees what was output before. -/
theorem outputsAreNeverRead : Obligations.OutputsAreNeverRead := by
  intro i s t w e r h
  exact (exec_commute (prefixOutputs_neverSeen w e r) i s).trans (congrArg (mapNext _) h)

end Sys2Proof.Machine
end

section
/-! The step (00_scope.md R9, 20_memory.md R59): what it takes from the queue, what it refuses, that the queue runs in issue
order, and from these O5, O7, O8, O9 and O47. -/

namespace Sys2Proof.Machine

open Sys2Proof.Safety

/-! ## What a step takes -/

theorem step_of_capBelowTwo {s : State} (h : capAdmissible s.bufCap = false) : step s = .refused .bufCapBelowTwo := by
  simp [step, takeNext, h]

theorem step_of_nil {s : State} (hcap : capAdmissible s.bufCap = true) (h : s.inputs = []) : step s = .next s := by
  simp [step, takeNext, hcap, h]

theorem step_of_cons {s : State} {x : Input} {rest : List Input} (hcap : capAdmissible s.bufCap = true)
    (h : s.inputs = x :: rest) : step s = runInput x (setInputs rest s) := by
  simp [step, takeNext, hcap, h]

theorem step_of_operation {s : State} {w : PortWord} {rest : List Input} {i : Instr}
    (hcap : capAdmissible s.bufCap = true) (h : s.inputs = .operation w :: rest) (hw : decode w = .ok i) :
    step s = exec i (setInputs rest s) := by
  rw [step_of_cons hcap h, runInput, runWord, hw]

theorem decodeTableWord_eq_some {nbits w : Nat} {i : Instr} (h : decodeTableWord nbits w = some i) :
    decode (tableWord nbits w) = .ok i := by
  unfold decodeTableWord at h
  split at h
  · next hw => rw [hw, Option.some.inj h]
  · cases h

/-- Settles O7: one case of the step each; the word placed in front is taken off again, which gives `s` back. -/
theorem stepRunsDecodedInstruction : Obligations.StepRunsDecodedInstruction := fun s hcap =>
  ⟨step_of_nil hcap, fun _ h => step_of_cons hcap h, fun _ _ _ h hw => step_of_operation hcap h hw,
    fun nbits w _ h => step_of_operation (s := s.withFetchWord nbits w) hcap rfl (decodeTableWord_eq_some h)⟩

/-- Settles O47: the reset values by evaluation, and the hardware reset as the input a step takes. -/
theorem resetLeavesStatedValues : Obligations.ResetLeavesStatedValues :=
  ⟨⟨rfl, rfl, rfl, rfl, rfl, rfl⟩, fun _ _ hcap h => step_of_cons hcap h⟩

/-! ## What a step refuses -/

/-- An instruction is refused only for the transmit order. -/
theorem exec_refused {i : Instr} {s : State} {r : Refusal} (h : exec i s = .refused r) :
    r ∈ [Refusal.txOpenWhileFrameOpen, .txByteWithoutFrame, .txCloseWithoutFrame] := by
  cases i with
  | txopen =>
    simp only [exec, execTxopen] at h
    split at h
    · cases h; decide
    · cases h
  | txbyte b =>
    simp only [exec, execTxbyte] at h
    split at h
    · cases h
    · cases h; decide
  | txclose =>
    simp only [exec, execTxclose] at h
    split at h
    · cases h
    · cases h; decide
  | rxbyte | rxFlag | rxEsc | rxData => exact absurd h (settle_ne_refused _ r)
  | crcstep | needesc | rxreset | txStuff7E | txStuff7D | txStuff11 | txStuff13 | txStuffF8 | txLit => cases h

theorem exec_ne_reservedOperationCode (i : Instr) (s : State) (op : BitVec 4) :
    exec i s ≠ .refused (.reservedOperationCode op) := fun h => by simpa using exec_refused h

theorem exec_ne_bufCapBelowTwo (i : Instr) (s : State) : exec i s ≠ .refused .bufCapBelowTwo := fun h => by
  simpa using exec_refused h

/-- A tuple decodes where its code is 1 to 7 and is a reserved code everywhere else (R82). -/
theorem decode_command_cases (w : Tuple) :
    (∃ i, decode (.command w) = .ok i ∧ ¬ (tupleOp w = 0#4 ∨ 8 ≤ (tupleOp w).toNat)) ∨
      decode (.command w) = .error (.reservedCode (tupleOp w)) ∧ (tupleOp w = 0#4 ∨ 8 ≤ (tupleOp w).toNat) := by
  have hzero : tupleOp w = 0#4 ↔ (tupleOp w).toNat = 0 := BitVec.toNat_eq
  simp only [hzero, decode, decodeTuple]
  generalize (tupleOp w).toNat = code
  match code with
  | 0 => exact .inr ⟨rfl, .inl rfl⟩
  | 1 | 2 | 3 | 4 | 5 | 6 | 7 => exact .inl ⟨_, rfl, by omega⟩
  | _ + 8 => exact .inr ⟨rfl, .inr (by omega)⟩

/-- Settles O5: the step decodes the tuple, and an instruction is never refused as a reserved code. -/
theorem reservedCodesAreRefused : Obligations.ReservedCodesAreRefused := by
  intro s w rest hcap hq
  obtain ⟨i, hw, hcode⟩ | ⟨hw, hcode⟩ := decode_command_cases w
  · rw [step_of_operation hcap hq hw]
    exact iff_of_false (exec_ne_reservedOperationCode i _ _) hcode
  · rw [step_of_cons hcap hq, runInput, runWord, hw]
    exact iff_of_true rfl hcode

theorem capAdmissible_eq_false_iff {cap : BufCap} : capAdmissible cap = false ↔ ∃ n, cap = .bytes n ∧ n < 2 := by
  cases cap <;> simp [capAdmissible]

theorem runInput_ne_bufCapBelowTwo (x : Input) (s : State) : runInput x s ≠ .refused .bufCapBelowTwo := by
  cases x with
  | hardwareReset => exact nofun
  | operation w =>
    rw [runInput, runWord]
    split
    · exact exec_ne_bufCapBelowTwo _ s
    · next e _ => cases e; exact nofun

theorem exec_bufCap {i : Instr} {s t : State} (h : exec i s = .next t) : t.bufCap = s.bufCap := by
  obtain ⟨-, hcap, -⟩ := sidesShareNoState i s t h
  exact hcap

theorem exec_inputs {i : Instr} {s t : State} (h : exec i s = .next t) : t.inputs = s.inputs := by
  obtain ⟨hqueue, -⟩ := sidesShareNoState i s t h
  exact hqueue

/-- Settles O8: the capacity is tested before anything is taken, nothing else answers that refusal, and no instruction
writes the capacity. -/
theorem bufCapIsFixedAndAtLeastTwo : Obligations.BufCapIsFixedAndAtLeastTwo := by
  refine ⟨fun s => ?_, fun s t h => ?_⟩
  · rw [← capAdmissible_eq_false_iff]
    refine ⟨step_of_capBelowTwo, fun h => ?_⟩
    by_contra hcap
    rw [Bool.not_eq_false] at hcap
    cases hq : s.inputs with
    | nil => exact nomatch (step_of_nil hcap hq).symm.trans h
    | cons x rest => exact runInput_ne_bufCapBelowTwo x _ ((step_of_cons hcap hq).symm.trans h)
  · obtain ⟨-, ⟨-, rfl⟩ | ⟨rest, -, rfl⟩ | ⟨w, rest, i, -, -, hexec⟩⟩ := step_cases h
    · rfl
    · rfl
    · exact exec_bufCap (s := setInputs rest s) hexec

/-! ## The queue -/

/-- No instruction sees what is pending. -/
theorem setInputs_neverSeen (q : List Input) : NeverSeen (setInputs q) where
  bufCap _ := rfl
  rxMode _ := rfl
  rxLen _ := rfl
  rxBuf _ := rfl
  rxCrc _ := rfl
  rxOvf _ := rfl
  setRxMode _ _ := rfl
  setRxLen _ _ := rfl
  setRxBuf _ _ := rfl
  setRxCrc _ _ := rfl
  setRxOvf _ _ := rfl
  emitEvt _ _ := rfl
  txCrc _ := rfl
  txOpen _ := rfl
  setTxCrc _ _ := rfl
  setTxOpen _ _ := rfl
  emitWire _ _ := rfl
  emitResult _ _ := rfl

/-- The encoded operations as pending inputs. -/
def pendingOps (is : List Instr) : List Input := is.map fun i => .operation (encode i)

/-- With a well-formed instruction's word first, a step is that instruction, the rest of the queue kept. -/
theorem step_pendingOps_cons {i : Instr} (is : List Instr) {s : State} (hwf : i.wf = true)
    (hcap : capAdmissible s.bufCap = true) :
    step (setInputs (pendingOps (i :: is)) s) = mapNext (setInputs (pendingOps is)) (exec i s) := by
  rw [step_of_operation (s := setInputs (pendingOps (i :: is)) s) hcap rfl (decodeEncodeReturnsInstruction i hwf)]
  exact exec_commute (setInputs_neverSeen (pendingOps is)) i s

/-- A run goes on from the next state. -/
theorem run_of_next {M : Host.Core} {s t : M.State} (h : M.step s = .next t) (k : Nat) :
    M.run (k + 1) s = M.run k t := by
  rw [Host.Core.run, h]

theorem run_of_fault {M : Host.Core} {s : M.State} {f : M.Fault} (h : M.step s = .fault f) (k : Nat) :
    M.run (k + 1) s = .fault f := by
  rw [Host.Core.run, h]

theorem run_of_refused {M : Host.Core} {s : M.State} {r : M.Refusal} (h : M.step s = .refused r) (k : Nat) :
    M.run (k + 1) s = .refused r := by
  rw [Host.Core.run, h]

/-- Settles O9, by induction on the queue: each step is the first instruction (`step_pendingOps_cons`), and what it
completes in has the capacity and an empty queue behind it again. -/
theorem queuedOperationsRunInIssueOrder : Obligations.QueuedOperationsRunInIssueOrder := by
  intro is s hwf hcap hq
  induction is generalizing s with
  | nil => exact congrArg Host.Outcome.next (state_ext rfl rfl rfl rfl rfl rfl rfl rfl rfl rfl rfl hq.symm)
  | cons i is ih =>
    obtain ⟨hi, his⟩ := List.forall_mem_cons.1 hwf
    have hstep := step_pendingOps_cons is hi hcap
    rw [execAll]
    cases hexec : exec i s with
    | next t =>
      rw [hexec] at hstep
      exact (run_of_next (M := core) hstep _).trans (ih t his (exec_bufCap hexec ▸ hcap) ((exec_inputs hexec).trans hq))
    | fault f =>
      rw [hexec] at hstep
      exact run_of_fault (M := core) hstep _
    | refused r =>
      rw [hexec] at hstep
      exact run_of_refused (M := core) hstep _

end Sys2Proof.Machine
end

section
/-! The CRC unit as the caller sees it (40_crc.md R100 to R102), the residue as the test of a valid content (R107), and from
these O10, O11, O12, O14 and O15. -/

namespace Sys2Proof.Machine

/-! ## CRCSTEP and the table -/

/-- Settles O10: the word of code 0x1, and the result is the table step the statement writes out. -/
theorem crcstepGivesTableUpdate : Obligations.CrcstepGivesTableUpdate := fun crc b s =>
  ⟨decode_crcstep_tuple crc b, exec_crcstep crc b s⟩

/-- Settles O11: `crcTable_eq_map_crcLoop`, read at one index. -/
theorem crcTableIsLoopOutput : Obligations.CrcTableIsLoopOutput := by
  refine ⟨by rw [crcTable_eq_map_crcLoop, List.length_map, List.length_range], fun i => ?_⟩
  have hi : i.toNat < 256 := i.isLt
  simp [crcTable_eq_map_crcLoop, hi]

/-- Settles O12: `crc16Step_eq_crcLoop`. -/
theorem crcstepIsBitSerial : Obligations.CrcstepIsBitSerial := crc16Step_eq_crcLoop

/-! ## The last two bytes -/

/-- A byte above eight zero bits goes through eight turns as a shift. -/
theorem crcLoop_highByte (b : Byte) : crcLoop 8 (b.setWidth 16 <<< 8) = b.setWidth 16 := by
  rw [crcLoop_of_low_bits_zero fun i hi => by simp [hi]]
  apply BitVec.eq_of_getLsbD_eq
  intro i hi
  have hlow : b.getLsbD i = true → 8 + i < 16 := fun hb => Nat.add_lt_add_left (BitVec.lt_of_getLsbD hb) 8
  simpa [hi] using hlow

theorem joinFcs_eq_xor (h l : Byte) : joinFcs h l = l.setWidth 16 ^^^ h.setWidth 16 <<< 8 := by
  apply BitVec.eq_of_getLsbD_eq
  intro i hi
  simp only [joinFcs, BitVec.getLsbD_append, BitVec.getLsbD_xor]
  by_cases h8 : i < 8
  · simp [h8, hi]
  · simp [h8, hi, BitVec.getLsbD_of_ge l i (by omega)]

/-- Two steps over a low and a high byte are sixteen turns over the two together. -/
theorem crcFrom_pair (c : Word16) (l h : Byte) : crcFrom c [l, h] = crcLoop 8 (crcLoop 8 (c ^^^ joinFcs h l)) :=
  calc crcFrom c [l, h]
    _ = crcLoop 8 (crcLoop 8 (c ^^^ l.setWidth 16) ^^^ h.setWidth 16) := by
      rw [crcFrom_cons, crcFrom_cons, crcFrom_nil, crc16Step_eq_crcLoop, crc16Step_eq_crcLoop]
    _ = crcLoop 8 (crcLoop 8 (c ^^^ l.setWidth 16) ^^^ crcLoop 8 (h.setWidth 16 <<< 8)) := by rw [crcLoop_highByte]
    _ = crcLoop 8 (crcLoop 8 (c ^^^ joinFcs h l)) := by rw [← crcLoop_xor, joinFcs_eq_xor, BitVec.xor_assoc]

/-- From one accumulator different received FCS lead to different CRCs. -/
theorem crcFrom_pair_eq_iff {c : Word16} {l h l' h' : Byte} :
    crcFrom c [l, h] = crcFrom c [l', h'] ↔ joinFcs h l = joinFcs h' l' := by
  rw [crcFrom_pair, crcFrom_pair, (crcLoop_injective 8).eq_iff, (crcLoop_injective 8).eq_iff, BitVec.xor_right_inj]

/-- A content of two bytes or more is a payload and two FCS bytes. -/
theorem eq_take_append_pair {c : List Byte} (hlen : 2 ≤ c.length) :
    c = c.take (c.length - 2) ++ [c.getD (c.length - 2) 0#8, c.getD (c.length - 1) 0#8] := by
  have hlast : c.drop (c.length - 2) = [c.getD (c.length - 2) 0#8, c.getD (c.length - 1) 0#8] := by
    rw [List.drop_eq_getElem_cons (by omega), List.drop_eq_getElem_cons (by omega), List.drop_of_length_le (by omega),
      List.getD_eq_getElem _ _ (by omega), List.getD_eq_getElem _ _ (by omega)]
    simp only [show c.length - 2 + 1 = c.length - 1 by omega]
  rw [← hlast, List.take_append_drop]

/-- The residue marks the valid contents (R107): the payload's own FCS leads to it, and no other received FCS does. -/
theorem crc16_eq_crcCheck_iff {c : List Byte} (hlen : 2 ≤ c.length) :
    crc16 c = crcCheck ↔ fcs16 (c.take (c.length - 2)) = receivedFcs c := by
  have hcrc : crc16 c =
      crcFrom (crc16 (c.take (c.length - 2))) [c.getD (c.length - 2) 0#8, c.getD (c.length - 1) 0#8] := by
    conv_lhs => rw [eq_take_append_pair hlen]
    exact crcFrom_append _ _ _
  rw [hcrc, ← crcFrom_own_fcs (crc16 (c.take (c.length - 2))), crcFrom_pair_eq_iff, joinFcs_highByte_lowByte, fcs16,
    receivedFcs, eq_comm]

/-- Settles O14: a payload's own FCS leaves the residue, and `crc16_eq_crcCheck_iff`. -/
theorem validContentLeavesResidue : Obligations.ValidContentLeavesResidue :=
  ⟨crc16_append_fcsBytes, fun _ => crc16_eq_crcCheck_iff⟩

/-! ## Valid frames -/

/-- A content is judged FRAME(p) exactly when it fits and is p with its own FCS. -/
theorem classify_eq_frame_iff {cap : BufCap} {c p : List Byte} :
    classify cap c = some (.frame p) ↔ capFits cap c.length = true ∧ c = p ++ fcsBytes p := by
  constructor
  · intro h
    unfold classify at h
    dsimp only at h
    split_ifs at h with hover hlen hvalid
    · cases h
    · obtain rfl : c.take (c.length - 2) = p := Event.frame.inj (Option.some.inj h)
      exact ⟨by simpa using hover, eq_append_fcsBytes_of_valid (by omega) hvalid⟩
    · cases h
  · rintro ⟨hfits, rfl⟩
    have hlen : (p ++ fcsBytes p).length = p.length + 2 := List.length_append
    rw [classify_append_fcsBytes, ← hlen, if_pos hfits]

theorem crc16_eq_crcCheck_of_frame {cap : BufCap} {c p : List Byte} (h : classify cap c = some (.frame p)) :
    crc16 c = crcCheck := by
  obtain ⟨-, rfl⟩ := classify_eq_frame_iff.1 h
  exact crc16_append_fcsBytes p

/-- Settles O15: two valid contents leave the same residue, and contents that differ in one byte have different CRCs
(`byte_eq_of_crc16_eq`). -/
theorem oneByteDamageIsDetected : Obligations.OneByteDamageIsDetected := by
  intro cap a b x y p q hxy hx hy
  exact hxy (byte_eq_of_crc16_eq ((crc16_eq_crcCheck_of_frame hx).trans (crc16_eq_crcCheck_of_frame hy).symm))

end Sys2Proof.Machine
end

section
/-! What one instruction can do to the receiver, together with the instruction that does it, said once, and from that the
mode changes (43_rx_decoder.md R173), the moves of `rx_len` (10_state.md R22), the buffer writes (20_memory.md R53) and the
events (60_exceptions.md R190, R196): O38, O39, O40, O56, O57 and O58. -/

namespace Sys2Proof.Machine

open Sys2Proof.Safety

/-! ## One instruction and the receiver -/

/-- Everything an instruction that completes can do to the receiver, in any state. -/
inductive ReceiverStep (s : State) : Instr → State → Prop where
  /-- an instruction of another side. -/
  | elsewhere {i : Instr} {t : State} (hi : isReceive i = false) (hview : rxView t = rxView s)
      (hevt : t.evtOut = s.evtOut) : ReceiverStep s i t
  /-- RXRESET (R166). -/
  | reset : ReceiverStep s .rxreset (clearRx .notStarted s)
  /-- a byte before the first flag (R152). -/
  | discard {i : Instr} (hm : s.rxMode = .notStarted) : ReceiverStep s i s
  /-- the first flag (R151). -/
  | opened {i : Instr} (hi : i = .rxbyte flagByte ∨ i = .rxFlag) (hm : s.rxMode = .notStarted) :
      ReceiverStep s i (clearRx .started s)
  /-- a frame boundary (R154, R156). -/
  | boundary {i : Instr} {t : State} (hi : i = .rxbyte flagByte ∨ i = .rxFlag) (hm : s.rxMode ≠ .notStarted)
      (hb : frameBoundary s = .ok t) : ReceiverStep s i t
  /-- the first byte of a pair (R153). -/
  | escape {i : Instr} (hi : i = .rxbyte escByte ∨ i = .rxEsc) (hm : s.rxMode = .started) :
      ReceiverStep s i (setRxMode .unescaping s)
  /-- a content byte, as it is or transformed (R155, R157). -/
  | append {i : Instr} (v : Byte) {u : State} (hm : s.rxMode ≠ .notStarted) (ha : appendByte v s = .ok u) :
      ReceiverStep s i (setRxMode .started u)

theorem setRxMode_of_eq {m : Mode} {s : State} (h : s.rxMode = m) : setRxMode m s = s := by
  rw [← h]
  rfl

theorem storeUnescaped_receiverStep {i : Instr} {s t : State} {b : Byte} (hm : s.rxMode = .unescaping)
    (h : storeUnescaped b s = .ok t) : ReceiverStep s i t := by
  unfold storeUnescaped at h
  cases ha : appendByte (escapeTransform b) s with
  | error f =>
    rw [ha] at h
    cases h
  | ok u =>
    rw [ha] at h
    cases h
    exact .append _ (by simp [hm]) ha

theorem wireFlag_receiverStep {i : Instr} {s t : State} (hi : i = .rxbyte flagByte ∨ i = .rxFlag)
    (h : wireFlag s = .ok t) : ReceiverStep s i t := by
  by_cases hm : s.rxMode = .notStarted
  · simp only [wireFlag, hm] at h
    cases h
    exact .opened hi hm
  · exact .boundary hi hm (wireFlag_of_open hm ▸ h)

theorem wireEsc_receiverStep {i : Instr} {s t : State} (hi : i = .rxbyte escByte ∨ i = .rxEsc)
    (h : wireEsc s = .ok t) : ReceiverStep s i t := by
  unfold wireEsc at h
  split at h
  · next hm => cases h; exact .discard hm
  · next hm => cases h; exact .escape hi hm
  · next hm => exact storeUnescaped_receiverStep hm h

theorem wireData_receiverStep {i : Instr} {s t : State} {b : Byte} (h : wireData b s = .ok t) : ReceiverStep s i t := by
  unfold wireData at h
  split at h
  · next hm => cases h; exact .discard hm
  · next hm =>
    have hmode : t.rxMode = .started := (appendByte_rxMode h).trans hm
    exact setRxMode_of_eq hmode ▸ .append b (by simp [hm]) h
  · next hm => exact storeUnescaped_receiverStep hm h

theorem exec_receiverStep {i : Instr} {s t : State} (h : exec i s = .next t) : ReceiverStep s i t := by
  cases i with
  | rxreset => cases h; exact .reset
  | rxFlag => exact wireFlag_receiverStep (.inr rfl) (settle_eq_next.1 h)
  | rxEsc => exact wireEsc_receiverStep (.inr rfl) (settle_eq_next.1 h)
  | rxData b => exact wireData_receiverStep (settle_eq_next.1 h)
  | rxbyte b =>
    by_cases hflag : b = flagByte
    · subst hflag
      exact wireFlag_receiverStep (.inl rfl) (settle_eq_next.1 h)
    by_cases hesc : b = escByte
    · subst hesc
      exact wireEsc_receiverStep (.inl rfl) (settle_eq_next.1 h)
    rw [exec_rxbyte_data hflag hesc] at h
    exact wireData_receiverStep (settle_eq_next.1 h)
  | crcstep | needesc => cases h; exact .elsewhere rfl rfl rfl
  | txopen | txbyte | txclose | txStuff7E | txStuff7D | txStuff11 | txStuff13 | txStuffF8 | txLit =>
    obtain ⟨-, -, htx, -⟩ := sidesShareNoState _ s t h
    obtain ⟨hview, hevt, -⟩ := htx rfl
    exact .elsewhere rfl hview hevt

/-! ## Modes -/

/-- Settles O56: of each way to move the receiver, the mode before and after. -/
theorem modeChangesAreTheListed : Obligations.ModeChangesAreTheListed := by
  intro i s t h
  cases exec_receiverStep h with
  | elsewhere hi hview _ =>
    have hm : t.rxMode = s.rxMode := congrArg (·.2.1) hview
    rw [hm]
    exact ⟨.inl, .inl, .inl, fun _ _ => hi⟩
  | reset => simp
  | discard hm => simp [hm]
  | opened hi hm => simp [hm, hi]
  | boundary _ hm hb =>
    have hmode : t.rxMode = .started := congrArg (·.2.1) (frameBoundary_rxView hb)
    simp [hmode, hm]
  | escape hi hm => simp [hm, hi]
  | append _ hm _ => simp [hm]

/-! ## Length and buffer -/

theorem exec_rxLen {i : Instr} {s t : State} (h : exec i s = .next t) :
    t.rxLen = s.rxLen ∨ t.rxLen = 0 ∨ (t.rxLen = s.rxLen + 1 ∧ capAllows s.bufCap s.rxLen = true) := by
  cases exec_receiverStep h with
  | elsewhere _ hview _ => exact .inl (congrArg (·.2.2.1) hview)
  | reset | opened => exact .inr (.inl rfl)
  | discard | escape => exact .inl rfl
  | boundary _ _ hb => exact .inr (.inl (congrArg (·.2.2.1) (frameBoundary_rxView hb)))
  | append v _ ha =>
    obtain ⟨-, rfl⟩ | ⟨-, hroom, c, -, rfl⟩ := appendByte_cases ha
    · exact .inl rfl
    · exact .inr (.inr ⟨rfl, hroom⟩)

/-- A length within BUF_CAP fits the register of R22. -/
theorem lt_two_pow_rxLenBits {cap : BufCap} {n bits : Nat} (hfits : capFits cap n = true)
    (hbits : rxLenBits cap = some bits) : n < 2 ^ bits := by
  cases cap with
  | unbounded => cases hbits
  | bytes k =>
    obtain rfl := Option.some.inj hbits
    have hle : n ≤ k := of_decide_eq_true hfits
    exact hle.trans_lt Nat.lt_log2_self

/-- Settles O57: `exec_rxLen`, and the invariants keep the length within BUF_CAP. -/
theorem rxLenCountsWithinRegister : Obligations.RxLenCountsWithinRegister :=
  ⟨fun _ _ _ => exec_rxLen, fun _ _ hi hbits => lt_two_pow_rxLenBits hi.buffer.fits hbits⟩

/-- Settles O58: only an append writes, and that is one `memInsert` at `rx_len`. -/
theorem bufferChangesOneCellAtLength : Obligations.BufferChangesOneCellAtLength := by
  intro i s t h
  cases exec_receiverStep h with
  | elsewhere _ hview _ =>
    have hbuf : t.rxBuf = s.rxBuf := congrArg (·.2.2.2.1) hview
    exact ⟨.inl hbuf, fun hwf => hbuf ▸ hwf⟩
  | reset | opened => exact ⟨.inr (.inl ⟨rfl, rfl⟩), fun _ => List.Pairwise.nil⟩
  | discard | escape => exact ⟨.inl rfl, id⟩
  | boundary _ _ hb =>
    have hlen : t.rxLen = 0 := congrArg (·.2.2.1) (frameBoundary_rxView hb)
    have hbuf : t.rxBuf = [] := congrArg (·.2.2.2.1) (frameBoundary_rxView hb)
    exact ⟨.inr (.inl ⟨hbuf, hlen⟩), fun _ => hbuf ▸ List.Pairwise.nil⟩
  | append v _ ha =>
    obtain ⟨-, rfl⟩ | ⟨-, hroom, c, -, rfl⟩ := appendByte_cases ha
    · exact ⟨.inl rfl, id⟩
    · exact ⟨.inr (.inr ⟨hroom, rfl, ⟨v, memLookup_memInsert_same _ _ v⟩, fun k hk => memLookup_memInsert_ne _ v hk⟩),
        fun hwf => memInsert_wf hwf s.rxLen v⟩

/-! ## Events -/

theorem appendByte_evtOut {s t : State} {v : Byte} (h : appendByte v s = .ok t) : t.evtOut = s.evtOut := by
  obtain ⟨_, rfl⟩ | ⟨_, _, c, _, rfl⟩ := appendByte_cases h
  · rfl
  · rfl

/-- Only a frame boundary puts out an event. -/
theorem exec_evtOut {i : Instr} {s t : State} (h : exec i s = .next t) :
    t.evtOut = s.evtOut ∨
      frameBoundary s = .ok t ∧ s.rxMode ≠ .notStarted ∧ (i = .rxbyte flagByte ∨ i = .rxFlag) := by
  cases exec_receiverStep h with
  | elsewhere _ _ hevt => exact .inl hevt
  | reset | discard | opened | escape => exact .inl rfl
  | boundary hi hm hb => exact .inr ⟨hb, hm, hi⟩
  | append v _ ha => exact .inl ((setRxMode_evtOut _ _).trans (appendByte_evtOut ha))

/-- Settles O38: a frame boundary emits nothing or one event (`frameBoundary_cases`). -/
theorem onlyFlagEmitsAtMostOneEvent : Obligations.OnlyFlagEmitsAtMostOneEvent := by
  intro i s t h
  obtain hevt | ⟨hb, hm, hi⟩ := exec_evtOut h
  · exact .inl hevt
  · obtain rfl | ⟨e, rfl⟩ := frameBoundary_cases hb
    · exact .inl rfl
    · exact .inr ⟨e, rfl, hm, hi⟩

/-- From a filled buffer an appended event is the verdict on the frame. -/
theorem verdict_of_exec_evtOut {i : Instr} {s t : State} {e : Event} (hb : BufferOk s) (h : exec i s = .next t)
    (he : t.evtOut = s.evtOut ++ [e]) : verdict s = some e := by
  obtain hevt | ⟨hboundary, -, -⟩ := exec_evtOut h
  · simp [he] at hevt
  · rw [frameBoundary_eq hb] at hboundary
    cases hboundary
    rw [clearRx_evtOut, report_evtOut] at he
    cases hv : verdict s with
    | none => simp [hv] at he
    | some x => simpa [hv] using he

/-- The two values of a reported ERR_GARBAGE differ (R190). -/
theorem ne_of_verdict_errGarbage {s : State} {c r : Word16} (h : verdict s = some (.errGarbage c r)) : c ≠ r := by
  unfold verdict at h
  split_ifs at h with hovf hlen hvalid
  · cases h
  · cases h
  · cases h
    exact hvalid

/-- A reported payload and its FCS are the content of the buffer. -/
theorem length_of_verdict_frame {s : State} {p : List Byte} (hb : BufferOk s) (h : verdict s = some (.frame p)) :
    p.length + 2 = s.rxLen := by
  unfold verdict at h
  split_ifs at h with hovf hlen hvalid
  · cases h
  · cases h
    rw [List.length_take, content_length hb]
    omega
  · cases h

/-- Settles O40: the event is the verdict on the frame, which compares before it reports and reports no more than the
buffer holds. -/
theorem eventFieldsAreInRange : Obligations.EventFieldsAreInRange := by
  intro i s t e hb h he
  have hverdict := verdict_of_exec_evtOut hb h he
  refine ⟨?_, ?_⟩
  · rintro c r rfl
    exact ne_of_verdict_errGarbage hverdict
  · rintro p rfl
    exact length_of_verdict_frame hb hverdict ▸ hb.fits

/-- Where the invariants hold and nothing was lost, the verdict is the closed form's judgement of the content. -/
theorem verdict_eq_classify {s : State} (hi : Invariants s) (hm : s.rxMode ≠ .notStarted) (hovf : s.rxOvf = false) :
    verdict s = classify s.bufCap (content s) := by
  have hfits : capFits s.bufCap s.rxLen = true := hi.buffer.fits
  simp [verdict, classify, hovf, content_length hi.buffer, hfits, finishCrc_rxCrc_of_invariants hi hm hovf]

/-- Settles O39: the flag reports the verdict, and that is FRAME(p) exactly for the content p with its own FCS
(`classify_eq_frame_iff`). -/
theorem frameDeliveredIffContentValid : Obligations.FrameDeliveredIffContentValid := by
  intro s p hi hm hovf
  have hfits : capFits s.bufCap (content s).length = true := content_length hi.buffer ▸ hi.buffer.fits
  have hvalid : verdict s = some (.frame p) ↔ content s = p ++ fcsBytes p := by
    rw [verdict_eq_classify hi hm hovf, classify_eq_frame_iff, and_iff_right hfits]
  have hexec : exec (.rxbyte flagByte) s = .next (clearRx .started (report (verdict s) s)) := by
    rw [exec_rxbyte_flag, wireFlag_of_open hm, frameBoundary_eq hi.buffer, settle_ok]
  refine Iff.trans ⟨?_, fun hv => ?_⟩ hvalid
  · rintro ⟨t, ht, hevt⟩
    exact verdict_of_exec_evtOut hi.buffer ht hevt
  · exact ⟨_, hexec, by rw [clearRx_evtOut, report_evtOut, hv]; rfl⟩

end Sys2Proof.Machine
end

section
/-! DECODE in closed form (43_rx_decoder.md R172): the wire bytes between flags taken in as one content, the runs of a wire
sequence one after the other, and from that O42, O44 and O46. -/

namespace Sys2Proof.Machine

open Sys2Proof.Safety

/-! ## A run without a flag -/

/-- The mode of an open frame after a run of wire bytes (R172). -/
def modeAfter (g : List Byte) : Mode := if endsEscaping g then .unescaping else .started

theorem modeAfter_ne_notStarted (g : List Byte) : modeAfter g ≠ .notStarted := by
  unfold modeAfter
  split <;> decide

theorem modeAfter_esc_cons (v : Byte) (g : List Byte) : modeAfter (escByte :: v :: g) = modeAfter g := by
  simp [modeAfter, endsEscaping]

theorem modeAfter_cons_of_ne {w : Byte} (h : w ≠ escByte) (g : List Byte) : modeAfter (w :: g) = modeAfter g := by
  cases g with
  | nil => simp [modeAfter, endsEscaping, h]
  | cons v g => simp [modeAfter, endsEscaping, h]

/-- An open frame takes in a run without a flag un-stuffed, whatever the bytes are: an escape byte takes the next byte
with it, or is left pending at the end. -/
theorem execAll_rxchunkOps_run {g : List Byte} (hg : flagByte ∉ g) (c : List Byte) (s : State) :
    execAll (rxchunkOps g) (withContent .started c s) = .next (withContent (modeAfter g) (c ++ unstuff g) s) := by
  match g with
  | [] =>
    rw [unstuff, List.append_nil]
    rfl
  | w :: ws =>
    have hw : w ≠ flagByte := Ne.symm (List.ne_of_not_mem_cons hg)
    have hws : flagByte ∉ ws := List.not_mem_of_not_mem_cons hg
    by_cases hesc : w = escByte
    · match ws with
      | [] =>
        rw [hesc, show unstuff [escByte] = [] from rfl, List.append_nil]
        rfl
      | v :: g =>
        have hv : v ≠ flagByte := Ne.symm (List.ne_of_not_mem_cons hws)
        have hops : rxchunkOps (escByte :: v :: g) = rxchunkOps [escByte, v] ++ rxchunkOps g := rfl
        rw [hesc, unstuff_esc_cons, modeAfter_esc_cons, hops, execAll_append_next (execAll_rxchunkOps_pair hv c s),
          execAll_rxchunkOps_run (List.not_mem_of_not_mem_cons hws), List.append_assoc, List.singleton_append]
    · have hops : rxchunkOps (w :: ws) = .rxbyte w :: rxchunkOps ws := rfl
      rw [unstuff_cons_of_ne hesc, modeAfter_cons_of_ne hesc, hops,
        execAll_cons_next (exec_rxbyte_data_withContent hw hesc c s), execAll_rxchunkOps_run hws, List.append_assoc,
        List.singleton_append]

/-- With no frame open a run without a flag is discarded. -/
theorem execAll_rxchunkOps_discarded {g : List Byte} (hg : flagByte ∉ g) {s : State} (hm : s.rxMode = .notStarted) :
    execAll (rxchunkOps g) s = .next s := by
  induction g with
  | nil => rfl
  | cons w g ih =>
    obtain ⟨hw, hg⟩ := List.ne_and_not_mem_of_not_mem_cons hg
    have hops : rxchunkOps (w :: g) = .rxbyte w :: rxchunkOps g := rfl
    rw [hops, execAll_cons_next (exec_rxbyte_discarded (Ne.symm hw) hm), ih hg]

/-! ## The runs of a wire sequence -/

theorem cutAtFlags_flag_cons (ws : List Byte) :
    cutAtFlags (flagByte :: ws) = ([], (cutAtFlags ws).1 :: (cutAtFlags ws).2) := by
  simp [cutAtFlags]

theorem cutAtFlags_cons_of_ne {w : Byte} (h : w ≠ flagByte) (ws : List Byte) :
    cutAtFlags (w :: ws) = (w :: (cutAtFlags ws).1, (cutAtFlags ws).2) := by
  simp [cutAtFlags, h]

/-- A run without a flag and a flag behind it are cut off as they are. -/
theorem cutAtFlags_run_flag {g : List Byte} (hg : flagByte ∉ g) (ws : List Byte) :
    cutAtFlags (g ++ flagByte :: ws) = (g, (cutAtFlags ws).1 :: (cutAtFlags ws).2) := by
  induction g with
  | nil => exact cutAtFlags_flag_cons ws
  | cons w g ih =>
    obtain ⟨hw, hg⟩ := List.ne_and_not_mem_of_not_mem_cons hg
    rw [List.cons_append, cutAtFlags_cons_of_ne (Ne.symm hw), ih hg]

theorem cutAtFlags_run {g : List Byte} (hg : flagByte ∉ g) : cutAtFlags g = (g, []) := by
  induction g with
  | nil => rfl
  | cons w g ih =>
    obtain ⟨hw, hg⟩ := List.ne_and_not_mem_of_not_mem_cons hg
    rw [cutAtFlags_cons_of_ne (Ne.symm hw), ih hg]

/-- A wire sequence is one run, or a run, a flag and a shorter sequence. -/
theorem run_or_run_flag (ws : List Byte) :
    flagByte ∉ ws ∨ ∃ g rest, flagByte ∉ g ∧ ws = g ++ flagByte :: rest := by
  by_cases h : flagByte ∈ ws
  · obtain ⟨g, rest, rfl, hg⟩ := List.eq_append_cons_of_mem h
    exact .inr ⟨g, rest, hg, rfl⟩
  · exact .inl h

/-! ## The receiver along the runs -/

/-- Events at the end of `evt_out`. -/
def emitEvts (es : List Event) (s : State) : State := { s with evtOut := s.evtOut ++ es }

@[simp] theorem emitEvts_bufCap (es : List Event) (s : State) : (emitEvts es s).bufCap = s.bufCap := rfl

@[simp] theorem emitEvts_evtOut (es : List Event) (s : State) : (emitEvts es s).evtOut = s.evtOut ++ es := rfl

@[simp] theorem emitEvts_nil (s : State) : emitEvts [] s = s := by
  simp [emitEvts]

@[simp] theorem emitEvts_emitEvts (es es' : List Event) (s : State) :
    emitEvts es' (emitEvts es s) = emitEvts (es ++ es') s := by
  simp [emitEvts]

theorem report_eq_emitEvts (e : Option Event) (s : State) : report e s = emitEvts e.toList s := report_eq_update e s

/-- The events of a wire sequence that follows a flag: all its runs but the last are judged. -/
def runEvents (cap : BufCap) (ws : List Byte) : List Event :=
  ((cutAtFlags ws).1 :: (cutAtFlags ws).2).dropLast.filterMap fun g => classify cap (unstuff g)

/-- The run that a wire sequence leaves open. -/
def openRun (ws : List Byte) : List Byte := ((cutAtFlags ws).1 :: (cutAtFlags ws).2).getLast (List.cons_ne_nil _ _)

theorem runEvents_run {g : List Byte} (hg : flagByte ∉ g) (cap : BufCap) : runEvents cap g = [] := by
  simp [runEvents, cutAtFlags_run hg]

theorem openRun_run {g : List Byte} (hg : flagByte ∉ g) : openRun g = g := by
  simp [openRun, cutAtFlags_run hg]

theorem runEvents_run_flag {g : List Byte} (hg : flagByte ∉ g) (cap : BufCap) (ws : List Byte) :
    runEvents cap (g ++ flagByte :: ws) = (classify cap (unstuff g)).toList ++ runEvents cap ws := by
  rw [runEvents, cutAtFlags_run_flag hg, List.dropLast_cons_cons]
  cases h : classify cap (unstuff g) <;> simp [h, runEvents]

theorem openRun_run_flag {g : List Byte} (hg : flagByte ∉ g) (ws : List Byte) :
    openRun (g ++ flagByte :: ws) = openRun ws := by
  simp [openRun, cutAtFlags_run_flag hg]

/-- From an empty open frame a wire sequence reports the judgement of every run that a flag closes and leaves the last run
open. -/
theorem execAll_rxchunkOps_open (ws : List Byte) (s : State) :
    execAll (rxchunkOps ws) (withContent .started [] s) =
      .next (withContent (modeAfter (openRun ws)) (unstuff (openRun ws)) (emitEvts (runEvents s.bufCap ws) s)) := by
  obtain hrun | ⟨g, rest, hg, hws⟩ := run_or_run_flag ws
  · rw [execAll_rxchunkOps_run hrun, openRun_run hrun, runEvents_run hrun, emitEvts_nil, List.nil_append]
  · have hops : rxchunkOps ws = rxchunkOps g ++ .rxbyte flagByte :: rxchunkOps rest := by
      simp [hws, rxchunkOps]
    have hshort : rest.length < ws.length := by
      rw [hws, List.length_append, List.length_cons]
      omega
    rw [hops, execAll_append_next (execAll_rxchunkOps_run hg [] s),
      execAll_cons_next (exec_rxbyte_flag_withContent (modeAfter_ne_notStarted g) _ _), execAll_rxchunkOps_open rest,
      hws, openRun_run_flag hg, runEvents_run_flag hg, report_eq_emitEvts, emitEvts_emitEvts, emitEvts_bufCap,
      List.nil_append]
termination_by ws.length

/-! ## DECODE -/

/-- Without a flag DECODE leaves the receiver reset. -/
theorem execAll_decodeOps_run {g : List Byte} (hg : flagByte ∉ g) (s : State) :
    execAll (decodeOps g) s = .next (clearRx .notStarted s) := by
  rw [decodeOps, execAll_cons_next (exec_rxreset s), execAll_rxchunkOps_discarded hg rfl]

/-- The run before the first flag is discarded; from the flag on the frame is open. -/
theorem execAll_decodeOps_run_flag {g : List Byte} (hg : flagByte ∉ g) (ws : List Byte) (s : State) :
    execAll (decodeOps (g ++ flagByte :: ws)) s =
      .next (withContent (modeAfter (openRun ws)) (unstuff (openRun ws))
        (emitEvts (runEvents s.bufCap ws) (clearRx .notStarted s))) := by
  have hops : decodeOps (g ++ flagByte :: ws) = .rxreset :: (rxchunkOps g ++ .rxbyte flagByte :: rxchunkOps ws) := by
    simp [decodeOps, rxchunkOps]
  rw [hops, execAll_cons_next (exec_rxreset s), execAll_append_next (execAll_rxchunkOps_discarded hg rfl),
    execAll_cons_next (exec_rxbyte_flag_of_notStarted rfl), execAll_rxchunkOps_open, clearRx_bufCap]

theorem decodeEvents_run {g : List Byte} (hg : flagByte ∉ g) (cap : BufCap) : decodeEvents cap g = [] := by
  simp [decodeEvents, cutAtFlags_run hg]

theorem decodeEvents_run_flag {g : List Byte} (hg : flagByte ∉ g) (cap : BufCap) (ws : List Byte) :
    decodeEvents cap (g ++ flagByte :: ws) = runEvents cap ws := by
  rw [decodeEvents, cutAtFlags_run_flag hg, runEvents]

section withContent
variable (m : Mode) (c : List Byte) (s : State)
@[simp] theorem withContent_wireOut : (withContent m c s).wireOut = s.wireOut := rfl
@[simp] theorem withContent_resOut : (withContent m c s).resOut = s.resOut := rfl
@[simp] theorem txView_withContent : txView (withContent m c s) = txView s := rfl
end withContent

/-- Settles O42: with no flag everything is discarded; from the first flag on the receiver follows the runs
(`execAll_rxchunkOps_open`). -/
theorem decodeHasClosedForm : Obligations.DecodeHasClosedForm := by
  intro ws s
  obtain hrun | ⟨g, rest, hg, rfl⟩ := run_or_run_flag ws
  · refine ⟨_, execAll_decodeOps_run hrun s, ?_, rfl, rfl, rfl, ?_⟩
    · rw [decodeEvents_run hrun, List.append_nil, clearRx_evtOut]
    · rw [cutAtFlags_run hrun]
      rfl
  · refine ⟨_, execAll_decodeOps_run_flag hg rest s, ?_, txView_withContent _ _ _, withContent_wireOut _ _ _,
      withContent_resOut _ _ _, ?_⟩
    · rw [decodeEvents_run_flag hg, withContent_evtOut, emitEvts_evtOut, clearRx_evtOut]
    · rw [cutAtFlags_run_flag hg, List.getLast?_eq_some_getLast (List.cons_ne_nil _ _)]
      exact ⟨rfl, content_withContent _ _ _, withContent_bufferOk _ _ _⟩

/-! ## Two frames -/

theorem flagByte_notMem_stuffSeq (c : List Byte) : flagByte ∉ stuffSeq c := fun h =>
  absurd (eq_escByte_of_mem_stuffSeq h (by decide)) (by decide)

/-- A frame that fits, its first flag taken already, reports its payload. -/
theorem runEvents_encodeFrame_tail {cap : BufCap} {p : List Byte} (hfits : capFits cap (p.length + 2) = true)
    (ws : List Byte) : runEvents cap ((encodeFrame p).tail ++ ws) = .frame p :: runEvents cap ws := by
  have hframe : (encodeFrame p).tail ++ ws = stuffSeq (p ++ fcsBytes p) ++ flagByte :: ws := by
    simp [encodeFrame]
  rw [hframe, runEvents_run_flag (flagByte_notMem_stuffSeq _), unstuff_stuffSeq, classify_append_fcsBytes,
    if_pos hfits]
  rfl

/-- A second flag in a row closes an empty frame, which reports nothing (R161). -/
theorem runEvents_flag_cons (cap : BufCap) (ws : List Byte) : runEvents cap (flagByte :: ws) = runEvents cap ws := by
  have hempty : classify cap (unstuff []) = none := by simp [unstuff, classify]
  have hflag := runEvents_run_flag (g := []) List.not_mem_nil cap ws
  rwa [hempty] at hflag

theorem runEvents_nil (cap : BufCap) : runEvents cap [] = [] := runEvents_run List.not_mem_nil cap

theorem encodeFrame_eq_cons_tail (p : List Byte) : encodeFrame p = flagByte :: (encodeFrame p).tail := rfl

/-- DECODE of a wire sequence that starts with a flag reports the events of the rest. -/
theorem execAll_decodeOps_flag_events {ws : List Byte} {s : State} {es : List Event}
    (h : runEvents s.bufCap ws = es) :
    ∃ t, execAll (decodeOps (flagByte :: ws)) s = .next t ∧ t.evtOut = s.evtOut ++ es := by
  refine ⟨_, execAll_decodeOps_run_flag (g := []) List.not_mem_nil ws s, ?_⟩
  rw [withContent_evtOut, emitEvts_evtOut, clearRx_evtOut, h]

/-- Settles O44: each frame reports its payload (`runEvents_encodeFrame_tail`), and the second of two middle flags
nothing. -/
theorem twoFramesDecodeInOrder : Obligations.TwoFramesDecodeInOrder := by
  intro p q s hp hq
  have hsecond : runEvents s.bufCap (encodeFrame q).tail = [.frame q] := by
    rw [← List.append_nil (encodeFrame q).tail, runEvents_encodeFrame_tail hq, runEvents_nil]
  refine ⟨execAll_decodeOps_flag_events (ws := (encodeFrame p).tail ++ encodeFrame q) ?_,
    execAll_decodeOps_flag_events (ws := (encodeFrame p).tail ++ (encodeFrame q).tail) ?_⟩
  · rw [runEvents_encodeFrame_tail hp, encodeFrame_eq_cons_tail q, runEvents_flag_cons, hsecond]
  · rw [runEvents_encodeFrame_tail hp, hsecond]

/-! ## Resynchronisation -/

/-- In every mode a flag leaves an empty open frame behind, with at most one event (R151, R154, R156). -/
theorem exec_rxbyte_flag_reopens {s : State} (hb : BufferOk s) :
    ∃ e, e.length ≤ 1 ∧ exec (.rxbyte flagByte) s = .next (withContent .started [] (emitEvts e s)) := by
  by_cases hm : s.rxMode = .notStarted
  · exact ⟨[], Nat.zero_le 1, by rw [exec_rxbyte_flag_of_notStarted hm, emitEvts_nil]⟩
  · refine ⟨(verdict s).toList, Option.length_toList_le, ?_⟩
    rw [exec_rxbyte_flag, wireFlag_of_open hm, frameBoundary_eq hb, settle_ok, clearRx_eq_withContent,
      report_eq_emitEvts]

/-- What a flag and more wire bytes leave depends on what came before in the flag's own event alone. -/
theorem execAll_rxchunkOps_flag_cons {s : State} (hb : BufferOk s) (ws : List Byte) :
    ∃ e, e.length ≤ 1 ∧ execAll (rxchunkOps (flagByte :: ws)) s =
      .next (withContent (modeAfter (openRun ws)) (unstuff (openRun ws))
        (emitEvts (e ++ runEvents s.bufCap ws) s)) := by
  obtain ⟨e, he, hflag⟩ := exec_rxbyte_flag_reopens hb
  have hops : rxchunkOps (flagByte :: ws) = .rxbyte flagByte :: rxchunkOps ws := rfl
  exact ⟨e, he, by rw [hops, execAll_cons_next hflag, execAll_rxchunkOps_open, emitEvts_emitEvts, emitEvts_bufCap]⟩

/-- The receive registers of an open frame are its mode's, its content's and BUF_CAP's. -/
theorem rxView_withContent_congr {s s' : State} (h : s.bufCap = s'.bufCap) (m : Mode) (c : List Byte) :
    rxView (withContent m c s) = rxView (withContent m c s') := by
  simp only [rxView, withContent_bufCap, withContent_rxMode, withContent_rxLen, withContent_rxBuf, withContent_rxCrc,
    withContent_rxOvf, h]

/-- Settles O46: both receivers end in the open frame of the last run (`execAll_rxchunkOps_flag_cons`). -/
theorem flagResynchronises : Obligations.FlagResynchronises := by
  intro s s' ws hb hb' hcap
  obtain ⟨e, he, ht⟩ := execAll_rxchunkOps_flag_cons hb ws
  obtain ⟨e', he', ht'⟩ := execAll_rxchunkOps_flag_cons hb' ws
  refine ⟨_, _, e, e', runEvents s.bufCap ws, ht, ht', rxView_withContent_congr hcap _ _, he, he', ?_, ?_⟩
  · exact (List.append_assoc _ _ _).symm
  · rw [hcap]
    exact (List.append_assoc _ _ _).symm

end Sys2Proof.Machine
end

section
/-! One bit damaged in a wire byte that is and becomes no escape byte and no flag (43_rx_decoder.md R170 case 1): one content
byte is then wrong, and from that O45. -/

namespace Sys2Proof.Machine

open Sys2Proof.Safety

/-- A byte other than the escape byte in stuffed content is a content byte itself or the second of its pair. -/
theorem stuffSeq_split_at_ne_escByte {c pre post : List Byte} {w : Byte} (hw : w ≠ escByte)
    (h : stuffSeq c = pre ++ w :: post) :
    ∃ a b d, c = a ++ b :: d ∧ post = stuffSeq d ∧
      (pre = stuffSeq a ∧ w = b ∨ pre = stuffSeq a ++ [escByte] ∧ w = escapeTransform b) := by
  induction c generalizing pre with
  | nil => simp at h
  | cons b c ih =>
    have hlater : ∀ pre', stuffSeq c = pre' ++ w :: post → ∃ a x d, b :: c = a ++ x :: d ∧ post = stuffSeq d ∧
        (stuff b ++ pre' = stuffSeq a ∧ w = x ∨ stuff b ++ pre' = stuffSeq a ++ [escByte] ∧ w = escapeTransform x) := by
      intro pre' hc
      obtain ⟨a, x, d, rfl, hpost, ⟨rfl, hx⟩ | ⟨rfl, hx⟩⟩ := ih hc
      · exact ⟨b :: a, x, d, rfl, hpost, .inl ⟨rfl, hx⟩⟩
      · exact ⟨b :: a, x, d, rfl, hpost, .inr ⟨(List.append_assoc _ _ _).symm, hx⟩⟩
    by_cases hb : b ∈ escapeSet
    · rw [stuff_of_mem hb] at hlater
      rw [stuffSeq_cons, stuff_of_mem hb] at h
      match pre with
      | [] => exact absurd (List.cons.inj h).1.symm hw
      | [_] =>
        obtain ⟨rfl, htail⟩ := List.cons.inj h
        obtain ⟨hx, hpost⟩ := List.cons.inj htail
        exact ⟨[], b, c, rfl, hpost.symm, .inr ⟨rfl, hx.symm⟩⟩
      | _ :: _ :: pre =>
        obtain ⟨rfl, htail⟩ := List.cons.inj h
        obtain ⟨rfl, hc⟩ := List.cons.inj htail
        exact hlater pre hc
    · rw [stuff_of_notMem hb] at hlater
      rw [stuffSeq_cons, stuff_of_notMem hb] at h
      match pre with
      | [] =>
        obtain ⟨hx, hpost⟩ := List.cons.inj h
        exact ⟨[], b, c, rfl, hpost.symm, .inl ⟨rfl, hx.symm⟩⟩
      | _ :: pre =>
        obtain ⟨rfl, hc⟩ := List.cons.inj h
        exact hlater pre hc

/-- Where such a byte is damaged and becomes no escape byte, un-stuffing gives the content with one byte wrong. -/
theorem unstuff_damaged {c pre post : List Byte} {w v : Byte} (h : stuffSeq c = pre ++ w :: post) (hw : w ≠ escByte)
    (hv : v ≠ escByte) (hwv : w ≠ v) :
    ∃ a x y d, c = a ++ x :: d ∧ x ≠ y ∧ unstuff (pre ++ v :: post) = a ++ y :: d := by
  obtain ⟨a, b, d, hc, rfl, ⟨rfl, rfl⟩ | ⟨rfl, rfl⟩⟩ := stuffSeq_split_at_ne_escByte hw h
  · refine ⟨a, w, v, d, hc, hwv, ?_⟩
    rw [unstuff_stuffSeq_append, unstuff_cons_of_ne hv, unstuff_stuffSeq]
  · refine ⟨a, b, escapeTransform v, d, hc, fun hb => hwv ?_, ?_⟩
    · rw [hb, escapeTransform_escapeTransform]
    · rw [List.append_assoc, List.singleton_append, unstuff_stuffSeq_append, unstuff_esc_cons, unstuff_stuffSeq]

/-- Between two flags one run is judged. -/
theorem runEvents_run_last_flag {g : List Byte} (hg : flagByte ∉ g) (cap : BufCap) :
    runEvents cap (g ++ [flagByte]) = (classify cap (unstuff g)).toList := by
  rw [runEvents_run_flag hg, runEvents_nil, List.append_nil]

theorem ne_xor_bit (w : Byte) {k : Nat} (hk : k < 8) : w ≠ w ^^^ (1#8 <<< k) := by
  intro h
  simpa [hk] using congrArg (BitVec.getLsbD · k) h

/-- Settles O45: the damage leaves one content byte wrong and makes no flag, so the one run between the flags is judged
garbage (`classify_damaged`). -/
theorem singleBitFlipIsGarbage : Obligations.SingleBitFlipIsGarbage := by
  intro p pre post w k s hk hfits hframe hesc hflag' hesc'
  have hstuffed : stuffSeq (p ++ fcsBytes p) = pre ++ w :: post := List.append_cancel_right (List.cons.inj hframe).2
  obtain ⟨a, x, y, d, hsent, hxy, htaken⟩ := unstuff_damaged hstuffed hesc hesc' (ne_xor_bit w hk)
  obtain ⟨c, r, hgarbage⟩ := classify_damaged hfits hsent hxy
  have hnoflag : flagByte ∉ pre ++ (w ^^^ (1#8 <<< k)) :: post := by
    have hundamaged := flagByte_notMem_stuffSeq (p ++ fcsBytes p)
    simp only [hstuffed, List.mem_append, List.mem_cons, not_or] at hundamaged ⊢
    obtain ⟨hpre, -, hpost⟩ := hundamaged
    exact ⟨hpre, Ne.symm hflag', hpost⟩
  have hevents : runEvents s.bufCap (pre ++ (w ^^^ (1#8 <<< k)) :: post ++ [flagByte]) = [.errGarbage c r] := by
    rw [runEvents_run_last_flag hnoflag, htaken, hgarbage]
    rfl
  obtain ⟨t, ht, hevt⟩ := execAll_decodeOps_flag_events hevents
  exact ⟨t, c, r, ht, hevt⟩

end Sys2Proof.Machine
end
